-- ==== Sys2Proof/Word.lean ====
section
/-!
DEFINITION. The word and bit-sequence types (spec 00_scope.md R8, R11; 10_state.md R22).
-/

namespace Sys2Proof

/-- A scalar register's value: `RW` = 32 bits, unsigned, bit 0 least significant (R11, R22; D3). -/
abbrev Word := BitVec 32

/-- A bit sequence (R8): a finite ordered list of bits, position 0 first. `true` is the bit 1. -/
abbrev Bits := List Bool

/-- `zext_RW(v)` (R11): the natural number `v` as a 32-bit value, for `v < 2^32`. -/
def zext (v : Nat) : Word := BitVec.ofNat 32 v

end Sys2Proof
end

