-- ==== Sys2Proof/Syntax.lean ====
section
/-!
DEFINITION. What the host writes: the eight commands of spec/opcode_table.json (30_encoding.md R71), the host's
actions (70_reset_and_hazards.md R288) and the host-script statements (30_encoding.md R90, R91).
-/

namespace Sys2Proof

/-- The commands of PCE-CMD v1, one constructor per row of the opcode table. A command word carries no register
number and no immediate (R70), so no constructor has an argument. -/
inductive Instr where
  /-- OP 0x1 (R103). -/
  | tobits
  /-- OP 0x2 (R104). -/
  | frombits
  /-- OP 0x3 (R128). -/
  | zfunc
  /-- OP 0x4 (R129). -/
  | periods
  /-- OP 0x5 (R130). -/
  | minperiod
  /-- OP 0x6 (R155). -/
  | scan
  /-- OP 0x7 (R180). -/
  | encode
  /-- OP 0x8 (R210). -/
  | decode
deriving DecidableEq, Repr

/-- The scalar registers of the register map (10_state.md R22). -/
inductive Reg where
  | cmd
  | status
  | n
  | p
  | l
  | a
  | w
  | res
  | bufLen
  | k
deriving DecidableEq, Repr

/-- The width of a bus access. Only whole words have a meaning (20_memory.md R52). -/
inductive AccessSize where
  | byte
  | half
  | word
deriving DecidableEq, Repr

/-- The host's actions (20_memory.md R58, 30_encoding.md R90, 70_reset_and_hazards.md R288). An offset is a byte offset
in the 256-byte register space (20_memory.md R51). -/
inductive HostAction where
  /-- A register read. -/
  | read (size : AccessSize) (offset : BitVec 8)
  /-- A register write; at CMD's offset it issues a command (R23). -/
  | write (size : AccessSize) (offset : BitVec 8) (value : Word)
  /-- LOAD_BUF (R54). -/
  | loadBuf (bits : Bits)
  /-- READ_BUF (R55). -/
  | readBuf
  /-- READ_ZOUT (R56). -/
  | readZout
  /-- READ_PSET (R57). -/
  | readPset
  /-- RESET (R280). -/
  | reset
deriving DecidableEq, Repr

/-- One statement of a host script (R90, R91). Values are the naturals the script writes down; `WellFormed` asks that
they be below 2^32. -/
inductive Stmt where
  /-- `WR <reg>, <value>` -/
  | wr (reg : Reg) (value : Nat)
  /-- `RD <reg>` -/
  | rd (reg : Reg)
  /-- `LOAD <bits>` -/
  | load (bits : Bits)
  /-- `RDBUF` -/
  | rdbuf
  /-- `RDZ` -/
  | rdz
  /-- `RDPSET` -/
  | rdpset
  /-- `RESET` -/
  | reset
  /-- `<MNEMONIC>`, a command by its name (R91). -/
  | issue (i : Instr)
  /-- `CMD <value>`, a raw command word. -/
  | cmd (value : Nat)
  /-- `SETUP <n>, <p>` (R91): the host computes `l`. -/
  | setup (n p : Nat)
  /-- `WIN <a>, <w>` (R91). -/
  | win (a w : Nat)
deriving DecidableEq, Repr

end Sys2Proof
end

