-- ==== Sys2Proof/Config.lean ====
section
/-!
DEFINITION. The implementation parameters of spec 00_scope.md R7: configuration, not state (10_state.md R40).
-/

namespace Sys2Proof

/-- The parameters the rules depend on, as the argument R7 and R40 make of them. -/
structure Params where
  /-- `NMAX`, the largest payload length; BUF holds at most `NMAX + 1` bits (R7, D4). -/
  nmax : Nat
  /-- `MAX_CORR(n)`, the most corrections ENCODE applies and the most records DECODE undoes (R7, D5). -/
  maxCorr : Nat → Nat

/-- What the spec says of the parameters: `4 <= NMAX <= 2^31 - 2` (R7), and every count fits in 31 bits (D4; DEDUCED, log 4), for
the payload lengths the block accepts. The default `MAX_CORR(n) = n` is legal with every legal NMAX. -/
structure Params.Legal (P : Params) : Prop where
  four_le_nmax : 4 ≤ P.nmax
  nmax_le : P.nmax ≤ 2 ^ 31 - 2
  maxCorr_lt : ∀ n, n ≤ P.nmax → P.maxCorr n < 2 ^ 31

/-- `BUS_ENDIAN` (R7, 20_memory.md R53): the order of a register's four bytes on the lanes of a byte-laned bus. -/
inductive ByteOrder where
  | little
  | big
deriving DecidableEq, Repr, Inhabited

/-- How far this implementation's `NMAX` lies above 4. OPEN (R7, D4): no body, so no proof knows its value (log 3). -/
opaque Config.nmaxAboveFour : Fin 2147483643

/-- This implementation's `MAX_CORR`. A parameter (R7, D5) whose default is `MAX_CORR(n) = n`: no body (log 4). -/
opaque Config.maxCorr : Nat → Fin 2147483648

/-- This platform's `BUS_ENDIAN`. OPEN (R53, D21): no body; no rule depends on it (log 14). -/
opaque Config.busEndian : ByteOrder

/-- The parameters of the machine `exec` and `step` describe. -/
def Config.params : Params where
  nmax := 4 + Config.nmaxAboveFour.val
  maxCorr n := (Config.maxCorr n).val

end Sys2Proof
end

