-- ==== Sys2Proof/Machine/Numbers.lean ====
section
/-!
DEFINITION. `clog2` on natural numbers (spec 00_scope.md R12).
-/

namespace Sys2Proof.Machine

/-- The first exponent from `k` on whose power of two reaches `n`, looking at `fuel` exponents at most. -/
def clog2From (n : Nat) : Nat → Nat → Nat
  | 0, k => k
  | fuel + 1, k => if n ≤ 2 ^ k then k else clog2From n fuel (k + 1)

/-- `clog2(n)` (R12): the least `k` with `2^k >= n`; `clog2(0) = 0`. Computed on integers (D6). The search never needs
more than `n` exponents, because `n <= 2^n`. -/
def clog2 (n : Nat) : Nat := clog2From n n 0

end Sys2Proof.Machine
end

