-- ==== Sys2Proof/Machine/RegisterMap.lean ====
section
/-!
DEFINITION. The register map (spec 10_state.md R22; 20_memory.md R51, R52).
-/

namespace Sys2Proof.Machine

/-- Each register's byte offset in the register space (R22). -/
def regOffset : Reg → BitVec 8
  | .cmd => 0x00#8
  | .status => 0x04#8
  | .n => 0x08#8
  | .p => 0x0C#8
  | .l => 0x10#8
  | .a => 0x14#8
  | .w => 0x18#8
  | .res => 0x1C#8
  | .bufLen => 0x20#8
  | .k => 0x24#8

/-- The register at a byte offset; `none` at every offset where no register begins (R22, R52). -/
def regAt (offset : BitVec 8) : Option Reg :=
  match offset.toNat with
  | 0x00 => some .cmd
  | 0x04 => some .status
  | 0x08 => some .n
  | 0x0C => some .p
  | 0x10 => some .l
  | 0x14 => some .a
  | 0x18 => some .w
  | 0x1C => some .res
  | 0x20 => some .bufLen
  | 0x24 => some .k
  | _ => none

end Sys2Proof.Machine
end

