-- ==== Sys2Proof/WellFormed.lean ====
section
/-!
DEFINITION. Which commands, host actions and script statements are well formed (spec 20_memory.md R52, R54;
30_encoding.md R70, R90).
-/

namespace Sys2Proof

/-- A command has no operand field (R70), so every command is well formed. -/
def Instr.wellFormed : Instr → Bool
  | .tobits | .frombits | .zfunc | .periods | .minperiod | .scan | .encode | .decode => true

/-- A register access has a meaning when it is a whole word at a multiple of 4 where a register stands (R52). -/
def accessWellFormed (size : AccessSize) (offset : BitVec 8) : Bool :=
  size == .word && offset.toNat % 4 == 0 && (Machine.regAt offset).isSome

/-- The host actions that have a meaning (R52, R54). -/
def HostAction.wellFormed (P : Params) : HostAction → Bool
  | .read size offset => accessWellFormed size offset
  | .write size offset _ => accessWellFormed size offset
  | .loadBuf bits => decide (bits.length ≤ P.nmax + 1)
  | .readBuf | .readZout | .readPset | .reset => true

/-- A script's `<value>` is below 2^32 (R90). -/
def valueWellFormed (v : Nat) : Bool := decide (v < 2 ^ 32)

/-- The statements R90 and R91 admit: every value written, the window length SETUP computes included, is below 2^32. -/
def Stmt.wellFormed : Stmt → Bool
  | .wr _ v => valueWellFormed v
  | .cmd v => valueWellFormed v
  | .setup n p => valueWellFormed n && valueWellFormed p && valueWellFormed (p + Machine.clog2 n + 1)
  | .win a w => valueWellFormed a && valueWellFormed w
  | .rd _ | .load _ | .rdbuf | .rdz | .rdpset | .reset | .issue _ => true

end Sys2Proof
end

