-- ==== Sys2Proof/Decode.lean ====
section
/-!
DEFINITION. The command word (spec 30_encoding.md R70 to R72): its decoder, total on every word, and its encoder.
-/

namespace Sys2Proof

/-- Why a word is no command (R72): each is an illegal command, which raises ILLEGAL_COMMAND. -/
inductive IllegalWord where
  /-- A bit of RSVD, bits 31:4, is set. -/
  | reservedBitsSet
  /-- OP is 0x0. -/
  | opcodeZero
  /-- OP is one of 0x9 to 0xF. -/
  | opcodeReserved
deriving DecidableEq, Repr

/-- The field OP, bits 3:0 (R70). -/
def opField (w : Word) : BitVec 4 := w.extractLsb' 0 4

/-- The field RSVD, bits 31:4 (R70). -/
def rsvdField (w : Word) : BitVec 28 := w.extractLsb' 4 28

/-- The opcode map (R71). -/
def decodeOp (op : BitVec 4) : Except IllegalWord Instr :=
  match op.toNat with
  | 0x0 => .error .opcodeZero
  | 0x1 => .ok .tobits
  | 0x2 => .ok .frombits
  | 0x3 => .ok .zfunc
  | 0x4 => .ok .periods
  | 0x5 => .ok .minperiod
  | 0x6 => .ok .scan
  | 0x7 => .ok .encode
  | 0x8 => .ok .decode
  | _ => .error .opcodeReserved

/-- A word selects a command exactly when RSVD is 0 and OP is in 1 to 8 (R71); every other word is illegal (R72). -/
def decode (w : Word) : Except IllegalWord Instr :=
  if rsvdField w = 0#28 then decodeOp (opField w) else .error .reservedBitsSet

/-- The decoder's reading of an instruction whose first `nbits` bits are those of `w` and whose other bits are 0. All
command words are 32 bits (R70), so more than 32 bits are no one command. -/
def decodeTableWord (nbits w : Nat) : Option Instr :=
  if nbits ≤ 32 then
    match decode (BitVec.ofNat 32 (w % 2 ^ nbits)) with
    | .ok i => some i
    | .error _ => none
  else none

/-- The word of a command (the column "word" of R71). -/
def encode : Instr → Word
  | .tobits => 0x00000001#32
  | .frombits => 0x00000002#32
  | .zfunc => 0x00000003#32
  | .periods => 0x00000004#32
  | .minperiod => 0x00000005#32
  | .scan => 0x00000006#32
  | .encode => 0x00000007#32
  | .decode => 0x00000008#32

end Sys2Proof
end

