-- ==== Sys2Proof/Machine/Flags.lean ====
section
/-!
DEFINITION. STATUS: its error codes and fields (spec 10_state.md R24; 30_encoding.md R74; 60_exceptions.md R250).
-/

namespace Sys2Proof.Machine

/-- The error codes of R250. Codes 6 and 7 are reserved and never written, so they have no constructor. -/
inductive ErrCode where
  | noError
  | emptyInput
  | encodingDiverged
  | malformedStream
  | precondition
  | illegalCommand
deriving DecidableEq, Repr

/-- The column ERR of R250. -/
def errBits : ErrCode → BitVec 3
  | .noError => 0#3
  | .emptyInput => 1#3
  | .encodingDiverged => 2#3
  | .malformedStream => 3#3
  | .precondition => 4#3
  | .illegalCommand => 5#3

/-- The whole of STATUS (R24): bits 31:4 zero, VF in bit 3, ERR in bits 2:0. -/
def statusWord (vf : Bool) (e : ErrCode) : Word := 0#28 ++ (BitVec.ofBool vf ++ errBits e)

/-- STATUS.ERR, bits 2:0 (R24). -/
def statusErr (st : Word) : BitVec 3 := st.extractLsb' 0 3

/-- STATUS.VF, bit 3 (R24). -/
def statusVf (st : Word) : Bool := st.getLsbD 3

/-- STATUS[31:4], reserved (R24). -/
def statusRsvd (st : Word) : BitVec 28 := st.extractLsb' 4 28

end Sys2Proof.Machine
end

