-- ==== Sys2Proof/Machine/State.lean ====
section
/-!
DEFINITION. The machine's state, reset and reasons to stop (spec 10_state.md R21 to R41).
-/

namespace Sys2Proof.Machine

/-- The model faults of R32 and R257 (I17, I18): host actions and commands the spec gives no meaning. All are safe:
the hardware goes on with an unspecified value that software must not use, and the model stops. -/
inductive Fault where
  /-- READ_BUF while BUF is ⊥ (R55). Raised by the host's action; safe. -/
  | readPoisonedBuf
  /-- A read of BUF_LEN while it is ⊥ (R31, R32). Raised by the host's action; safe. -/
  | readPoisonedBufLen
  /-- A read of RES while it is ⊥ (R32). Raised by the host's action; safe. -/
  | readPoisonedRes
  /-- A legal command that reads BUF, issued while BUF is ⊥ (R32, R73 step 1). Raised by the command; safe. -/
  | commandOnPoisonedBuf (i : Instr)
deriving DecidableEq, Repr

/-- The host accesses the block refuses (R52, R54; I13, I14), and an instruction without a meaning. All are safe: the
hardware's behaviour is unspecified, and the model stops. -/
inductive Refusal where
  /-- Raised by `exec` for an instruction that has no meaning yet; no arm does. Safe. -/
  | notModelled (mnemonic : String)
  /-- A byte or half-word register access (R52). Raised by the host's action; safe. -/
  | subWordAccess
  /-- A register access at an offset that is no multiple of 4 (R52). Raised by the host's action; safe. -/
  | misalignedAccess
  /-- A register access at a reserved offset, 0x28 to 0xFC (R52). Raised by the host's action; safe. -/
  | reservedOffset
  /-- LOAD_BUF of more than NMAX + 1 bits (R54). Raised by the host's action; safe. -/
  | loadTooLong
deriving DecidableEq, Repr

/-- What the block returns to the host for one read (70_reset_and_hazards.md R288). -/
inductive Reply where
  /-- A register's value. -/
  | word (w : Word)
  /-- BUF or PSET, position 0 first. -/
  | bits (b : Bits)
  /-- ZOUT. -/
  | nats (z : List Nat)
deriving DecidableEq, Repr

/-- The architectural state of R21, and two fields of the model's own. CMD, BUF_LEN and K hold nothing of their own
(R23, R31, R33) and are read by `readReg`. `none` is the poison ⊥ of R32. -/
structure State where
  /-- STATUS (R24). -/
  status : Word
  /-- N, the payload length (R25). -/
  n : Word
  /-- P, the period threshold (R26). -/
  p : Word
  /-- L, the window length (R27). -/
  l : Word
  /-- A, the value operand or window offset (R28). -/
  a : Word
  /-- W, the width operand or window length (R29). -/
  w : Word
  /-- RES, or ⊥ (R30, R32). -/
  res : Option Word
  /-- BUF, or ⊥ (R35, R32). -/
  buf : Option Bits
  /-- ZOUT (R36). -/
  zout : List Nat
  /-- PSET (R37). -/
  pset : Bits
  /-- The MODEL's own: the host's actions still to come, next first (R40 leaves the program to the host; DESIGN CHOICE, log 1). -/
  script : List HostAction
  /-- The MODEL's own: what the block has returned to the host, oldest first (DESIGN CHOICE, log 2). -/
  replies : List Reply
deriving DecidableEq, Repr

/-- The state after reset (R41, R280): registers 0, arrays empty, no poison. -/
def State.reset : State where
  status := 0#32
  n := 0#32
  p := 0#32
  l := 0#32
  a := 0#32
  w := 0#32
  res := some 0#32
  buf := some []
  zout := []
  pset := []
  script := []
  replies := []

end Sys2Proof.Machine
end

