-- ==== Sys2Proof/Machine/Ops.lean ====
section
/-!
DEFINITION. The named operations on State: updates, register reads and writes, the poison check, how a command completes
and how it raises an error (spec 10_state.md R22 to R43; 30_encoding.md R73, R74; 60_exceptions.md R250 to R259).
-/

namespace Sys2Proof.Machine

/-- What one command or host action answers. -/
abbrev Result := Host.Outcome State Fault Refusal

def State.setStatus (s : State) (v : Word) : State := { s with status := v }
def State.setN (s : State) (v : Word) : State := { s with n := v }
def State.setP (s : State) (v : Word) : State := { s with p := v }
def State.setL (s : State) (v : Word) : State := { s with l := v }
def State.setA (s : State) (v : Word) : State := { s with a := v }
def State.setW (s : State) (v : Word) : State := { s with w := v }
def State.setRes (s : State) (v : Word) : State := { s with res := some v }
/-- Writes BUF, and with it BUF_LEN, and clears their poison (R31, R32, R54). -/
def State.setBuf (s : State) (b : Bits) : State := { s with buf := some b }
def State.setZout (s : State) (z : List Nat) : State := { s with zout := z }
def State.setPset (s : State) (b : Bits) : State := { s with pset := b }
/-- BUF, BUF_LEN and RES become ⊥ (R254). -/
def State.poison (s : State) : State := { s with buf := none, res := none }
def State.setScript (s : State) (acts : List HostAction) : State := { s with script := acts }
/-- The block returns `r` to the host. -/
def State.reply (s : State) (r : Reply) : State := { s with replies := s.replies ++ [r] }

/-- BUF_LEN (R31): always `len(BUF)`, and ⊥ exactly when BUF is ⊥. -/
def State.bufLen (s : State) : Option Word := s.buf.map fun b => zext b.length

/-- K (R33): `clog2` of the current value of N, taken as a 32-bit unsigned integer. -/
def State.k (s : State) : Word := zext (clog2 s.n.toNat)

/-- A read of a register (R22, R43): CMD reads 0; a read of ⊥ is the model fault (R32). -/
def readReg (r : Reg) (s : State) : Except Fault Word :=
  match r with
  | .cmd => .ok 0#32
  | .status => .ok s.status
  | .n => .ok s.n
  | .p => .ok s.p
  | .l => .ok s.l
  | .a => .ok s.a
  | .w => .ok s.w
  | .res =>
    match s.res with
    | some v => .ok v
    | none => .error .readPoisonedRes
  | .bufLen =>
    match s.bufLen with
    | some v => .ok v
    | none => .error .readPoisonedBufLen
  | .k => .ok s.k

/-- A write of a register other than CMD: N, P, L, A and W store all 32 bits (R42); a write to a read-only register has
no effect (R43). A write to CMD stores nothing (R23); the command it issues is run by `writeWord`. -/
def writeReg (r : Reg) (v : Word) (s : State) : State :=
  match r with
  | .n => s.setN v
  | .p => s.setP v
  | .l => s.setL v
  | .a => s.setA v
  | .w => s.setW v
  | .cmd => s
  | .status => s
  | .res => s
  | .bufLen => s
  | .k => s

/-- A command completes (R73 step 4, R74): STATUS is written last, with ERR = NONE. -/
def complete (vf : Bool) (s : State) : Result := .next (s.setStatus (statusWord vf .noError))

/-- Raising a check-phase error (R14, R253): only STATUS changes, to the code with VF = 0. With `raiseExec` this is the
block's whole exception entry (R259): no mode, no jump, nothing else saved; and there is no return from it (R260). -/
def raiseCheck (e : ErrCode) (s : State) : Result := .next (s.setStatus (statusWord false e))

/-- Raising an execution-phase error (R254): STATUS is the code with VF = 0, and BUF, BUF_LEN and RES become ⊥. -/
def raiseExec (e : ErrCode) (s : State) : Result := .next (s.poison.setStatus (statusWord false e))

/-- The poison check of a command that reads BUF (R73 step 1): the model fault while BUF is ⊥, else BUF's bits. -/
def withBuf (i : Instr) (s : State) (run : Bits → Result) : Result :=
  match s.buf with
  | some b => run b
  | none => .fault (.commandOnPoisonedBuf i)

/-- An illegal command word (R72): it reads no state and raises ILLEGAL_COMMAND. -/
def illegalCommand (s : State) : Result := raiseCheck .illegalCommand s

/-- Reset (R41, R280): every piece of the block's state takes its reset value. The host's remaining actions, and what it
has already received, are the host's and stay (log 1, 2). -/
def resetBlock (s : State) : State := { State.reset with script := s.script, replies := s.replies }

end Sys2Proof.Machine
end

