-- ==== Sys2Proof/Machine/Sequences.lean ====
section
/-!
DEFINITION. The sequence primitives of the spec's notation (spec 00_scope.md R8, R9, R15).
-/

namespace Sys2Proof.Machine

/-- The `len` bits of `s` from position `a` on: R9's inclusive slice `s[a .. a+len-1]`, empty when `len = 0`. Used where
`a + len <= len(s)`. -/
def slice (s : Bits) (a len : Nat) : Bits := (s.drop a).take len

/-- `s[i]` (R8). Used where `i < len(s)`. -/
def bitAt (s : Bits) (i : Nat) : Bool := s.getD i false

/-- `delete(s, a, c)` (R9): `s` without the `c` bits at positions `a .. a+c-1`. -/
def deleteBits (s : Bits) (a c : Nat) : Bits := s.take a ++ s.drop (a + c)

/-- `insert(s, a, t)` (R9): `t` put in before position `a` of `s`. -/
def insertBits (s : Bits) (a : Nat) (t : Bits) : Bits := s.take a ++ (t ++ s.drop a)

/-- `take_last(s, c)` (R9): the last `c` bits. -/
def takeLast (s : Bits) (c : Nat) : Bits := s.drop (s.length - c)

/-- `drop_last(s, c)` (R9): all but the last `c` bits. -/
def dropLast (s : Bits) (c : Nat) : Bits := s.take (s.length - c)

/-- The loop `for x from a to a+count-1` of R15: it counts up, and each round sees what the earlier rounds assigned. -/
def forFrom {σ : Type} (body : Nat → σ → σ) : Nat → Nat → σ → σ
  | _, 0, acc => acc
  | a, count + 1, acc => forFrom body (a + 1) count (body a acc)

end Sys2Proof.Machine
end

