-- ==== Sys2Proof/Machine/Operands.lean ====
section
/-!
DEFINITION. Operand forms: the window descriptor (A, W) and the parameter triple (N, L, P) (spec 30_encoding.md R75 to
R77; 43_encoder.md R170).
-/

namespace Sys2Proof.Machine

/-- The window descriptor's precondition `A + W <= BUF_LEN`, on naturals, with no wrap-around (R75, R11). -/
abbrev WindowFits (a w : Word) (b : Bits) : Prop := a.toNat + w.toNat ≤ b.length

/-- `win(A, W) = BUF[A .. A+W-1]`, empty when `W = 0` (R75). -/
def win (a w : Word) (b : Bits) : Bits := slice b a.toNat w.toNat

/-- A command `i` that takes the window descriptor: the poison check, then the window's precondition, then its own work
on the window (R73, R75). -/
def withWindow (i : Instr) (s : State) (run : Bits → Result) : Result :=
  withBuf i s fun b =>
    if WindowFits s.a s.w b then run (win s.a s.w b) else raiseCheck .precondition s

/-- `validParams(n, l, p)` (R170). -/
abbrev ValidParams (nmax n l p : Nat) : Prop :=
  1 ≤ n ∧ n ≤ nmax ∧ 1 ≤ p ∧ p ≤ l ∧ l ≤ n ∧ l = p + clog2 n + 1

end Sys2Proof.Machine
end

