-- ==== Sys2Proof/Machine/BitVectors.lean ====
section
/-!
DEFINITION. The BitVector utilities: toBits, fromBits, TOBITS and FROMBITS (spec 40_bitvector.md).
-/

namespace Sys2Proof.Machine

/-- `toBits(value, w)` (R100): bit `j` is `(value >> j) & 1`, for `0 <= j < w`; higher bits of `value` are dropped. -/
def toBits (value w : Nat) : Bits := (List.range w).map fun j => value.testBit j

/-- `fromBits(bits)` (R101): position `j` weighs `2^j`; `fromBits([]) = 0`. -/
def fromBits : Bits → Nat
  | [] => 0
  | b :: rest => b.toNat + 2 * fromBits rest

/-- TOBITS (R103) for any parameters. It does not read BUF, so it runs while BUF is ⊥. -/
def tobitsAt (P : Params) (s : State) : Result :=
  if s.w.toNat ≤ P.nmax + 1 then complete false (s.setBuf (toBits s.a.toNat s.w.toNat))
  else raiseCheck .precondition s

/-- TOBITS (R103). -/
def execTobits (s : State) : Result := tobitsAt Config.params s

/-- FROMBITS (R104): the window as a number, which must fit RES. -/
def execFrombits (s : State) : Result :=
  withWindow .frombits s fun b =>
    if s.w.toNat ≤ 32 then complete false (s.setRes (zext (fromBits b))) else raiseCheck .precondition s

end Sys2Proof.Machine
end

