-- ==== Sys2Proof/Machine/Decoder.lean ====
section
/-!
DEFINITION. The Decoder: the record loop and DECODE (spec 44_decoder.md).
-/

namespace Sys2Proof.Machine

/-- Step 1c (R214): from position `index + t` down to `index + 1`, the distance of the first 1 from `index`. -/
def markerScan (buf : Bits) (index : Nat) : Nat → Option Nat
  | 0 => none
  | t + 1 => if bitAt buf (index + (t + 1)) then some (t + 1) else markerScan buf index t

/-- Step 1e (R216): `buf[t] <- buf[t-q]` for `t` from `index + q` to `index + l - 1`, each round seeing the earlier ones. -/
def replay (buf : Bits) (index q l : Nat) : Bits :=
  forFrom (fun t b => b.set t (bitAt b (t - q))) (index + q) (l - q) buf

/-- `Undo(buf)` (R217): one round of the record loop's body, steps 1a to 1e of R211, with the tests of R213 and R214. -/
def undo (n l p : Nat) (buf : Bits) : Except ErrCode Bits :=
  let record := dropLast buf 1
  let index := fromBits (takeLast record (clog2 n))
  let body := dropLast record (clog2 n)
  if n + 1 - l < index then .error .malformedStream
  else
    match markerScan body index (p - 1) with
    | none => .error .malformedStream
    | some q => .ok (replay (insertBits body (index + p) (List.replicate (l - p) false)) index q l)

/-- Whether a record remains (R211 step 1): the last bit of the buffer is 0. -/
def recordRemains (buf : Bits) : Bool := buf.getLast? == some false

/-- The record loop (R211). `left` is `MAX_CORR(n) - r`, how many records may still be undone, and `r` the records undone
so far: at `left = 0` a record that remains is the error of R218. Step 2 removes the terminator (R219). -/
def decodeLoop (n l p : Nat) : Nat → Nat → Bits → Except ErrCode (Bits × Nat)
  | 0, r, buf => if recordRemains buf then .error .malformedStream else .ok (dropLast buf 1, r)
  | left + 1, r, buf =>
    if recordRemains buf then
      match undo n l p buf with
      | .error e => .error e
      | .ok buf' => decodeLoop n l p left (r + 1) buf'
    else .ok (dropLast buf 1, r)

/-- `DecodeCore(enc, n, l, p)` (R211): the payload and the number of records undone, or the error. -/
def decodeCore (mc n l p : Nat) (enc : Bits) : Except ErrCode (Bits × Nat) := decodeLoop n l p mc 0 enc

/-- DECODE (R210) for any parameters. -/
def decodeAt (P : Params) (s : State) : Result :=
  withBuf .decode s fun b =>
    if ValidParams P.nmax s.n.toNat s.l.toNat s.p.toNat then
      if b.length = s.n.toNat + 1 then
        match decodeCore (P.maxCorr s.n.toNat) s.n.toNat s.l.toNat s.p.toNat b with
        | .error e => raiseExec e s
        | .ok (out, r) => complete false ((s.setBuf out).setRes (zext r))
      else raiseCheck .malformedStream s
    else raiseCheck .precondition s

/-- DECODE (R210). -/
def execDecode (s : State) : Result := decodeAt Config.params s

end Sys2Proof.Machine
end

