-- ==== Sys2Proof/Machine/PeriodAnalyzer.lean ====
section
/-!
DEFINITION. The PeriodAnalyzer: the Z-function, periods, the minimal period, ZFUNC, PERIODS and MINPERIOD (spec
41_period_analyzer.md).
-/

namespace Sys2Proof.Machine

/-- The length of the longest common prefix of two sequences. -/
def commonPrefix : Bits → Bits → Nat
  | x :: xs, y :: ys => if x = y then commonPrefix xs ys + 1 else 0
  | _, _ => 0

/-- `Zv(s, i)` (R121): how long a prefix of `s` the suffix of `s` at position `i` begins with. -/
def zValue (s : Bits) (i : Nat) : Nat := commonPrefix s (s.drop i)

/-- The prefix of `s` of length `t` stands again at position `i`: `s[0 .. t-1] = s[i .. i+t-1]`, with `t <= m - i` (R121). -/
abbrev MatchesAt (s : Bits) (i t : Nat) : Prop := i + t ≤ s.length ∧ slice s 0 t = slice s i t

/-- R121's own definition of `Zv(s, i)`: the largest such `t`. -/
def IsZValue (s : Bits) (i t : Nat) : Prop := MatchesAt s i t ∧ ∀ u, MatchesAt s i u → u ≤ t

/-- `computeZ(s)` (R122), by the definition of its entries (R123 leaves the algorithm free; DESIGN CHOICE, log 8). -/
def computeZ (s : Bits) : List Nat := (List.range s.length).map (zValue s)

/-- A period of `s` by its definition (R124): `q` is positive and `s[i] = s[i+q]` for all `0 <= i < m-q`. -/
abbrev IsPeriod (s : Bits) (q : Nat) : Prop :=
  1 ≤ q ∧ ∀ i, i < s.length - q → bitAt s i = bitAt s (i + q)

/-- `computePeriods(s)` (R125), from the Z values, in increasing order: the `q` in `1 .. m` with `q = m` or
`q + z[q] = m` (90_conflicts.md C1). -/
def computePeriods (s : Bits) : List Nat :=
  let m := s.length
  let z := computeZ s
  ((List.range m).map (· + 1)).filter fun q => q == m || q + z.getD q 0 == m

/-- `computeMinPeriod(s)` (R127): the least period; `none` is the failure on the empty sequence. -/
def computeMinPeriod (s : Bits) : Option Nat := (computePeriods s).min?

/-- The characteristic vector of the periods of `s`, bits `0 .. len(s)` (R37, R129). -/
def periodSet (s : Bits) : Bits :=
  let ps := computePeriods s
  (List.range (s.length + 1)).map fun q => ps.contains q

/-- ZFUNC (R128). -/
def execZfunc (s : State) : Result :=
  withWindow .zfunc s fun b => complete false (s.setZout (computeZ b))

/-- PERIODS (R129). -/
def execPeriods (s : State) : Result :=
  withWindow .periods s fun b => complete false (s.setPset (periodSet b))

/-- MINPERIOD (R130): the window's fit is tested before its emptiness. -/
def execMinperiod (s : State) : Result :=
  withWindow .minperiod s fun b =>
    match computeMinPeriod b with
    | none => raiseCheck .emptyInput s
    | some q => complete false (s.setRes (zext q))

end Sys2Proof.Machine
end

