-- ==== Sys2Proof/Machine/Scanner.lean ====
section
/-!
DEFINITION. The window scanner: violations, windows, the constraint and SCAN (spec 42_window_scanner.md).
-/

namespace Sys2Proof.Machine

/-- A non-empty window violates `p` exactly when its minimal period is below `p` (R150). -/
def violates (p : Nat) (s : Bits) : Bool :=
  match computeMinPeriod s with
  | some q => decide (q < p)
  | none => false

/-- `window(buf, i, l) = buf[i .. i+l-1]` (R151). -/
def window (buf : Bits) (i l : Nat) : Bits := slice buf i l

/-- The window offsets `0 <= i <= len - l` of a buffer of `len` bits, in increasing order; none when `l > len` (R152). -/
def offsets (len l : Nat) : List Nat := List.range (len + 1 - l)

/-- `sat(buf, l, p)` (R153): no window of length `l` violates `p`. -/
abbrev Sat (buf : Bits) (l p : Nat) : Prop := ∀ i ∈ offsets buf.length l, violates p (window buf i l) = false

/-- `firstViolation(buf, l, p)` (R154): the least offset whose window violates `p`. -/
def firstViolation (buf : Bits) (l p : Nat) : Option Nat :=
  (offsets buf.length l).find? fun i => violates p (window buf i l)

/-- SCAN (R155). -/
def execScan (s : State) : Result :=
  withBuf .scan s fun b =>
    if 1 ≤ s.p.toNat ∧ s.p.toNat ≤ s.l.toNat ∧ s.l.toNat ≤ b.length then
      match firstViolation b s.l.toNat s.p.toNat with
      | none => complete false (s.setRes (zext 0))
      | some f => complete true (s.setRes (zext f))
    else raiseCheck .precondition s

end Sys2Proof.Machine
end

