-- ==== Sys2Proof/Machine/Encoder.lean ====
section
/-!
DEFINITION. The Encoder: the length-preserving correction, the pass loop and ENCODE (spec 43_encoder.md).
-/

namespace Sys2Proof.Machine

/-- `Correct(buf, i, q)` (R173), for the parameters `n`, `l`, `p`: (a) delete the window beyond its first `p` bits,
(b) put the marker at `i + q` and zeros after it up to `i + p - 1`, (c) append the escape record. -/
def correct (n l p : Nat) (buf : Bits) (i q : Nat) : Bits :=
  let kept := deleteBits buf (i + p) (l - p)
  let marked := forFrom (fun j b => b.set j false) (i + q + 1) (p - (q + 1)) (kept.set (i + q) true)
  marked ++ (toBits i (clog2 n) ++ [false])

/-- ENCODE's internal variables (R38, 10_state.md) and the working buffer (R172). The offset `i` is the loop's own. -/
structure EncodeVars where
  /-- The working buffer. -/
  buf : Bits
  /-- Corrections applied so far. -/
  c : Nat
  /-- The number of the current pass, 1 in the first. -/
  pass : Nat
  /-- Whether the current pass has applied a correction. -/
  changed : Bool
deriving DecidableEq, Repr

/-- The body of the offset loop (R176, R177, R179) at offset `i`, on the current buffer; `mc` is `MAX_CORR(n)`. The empty
window's error is R127's and cannot occur here (R183; DEDUCED, log 9). -/
def encodeOffset (mc n l p : Nat) (i : Nat) (v : EncodeVars) : Except ErrCode EncodeVars :=
  match computeMinPeriod (window v.buf i l) with
  | none => .error .emptyInput
  | some q =>
    if q < p then
      if v.c = mc then .error .encodingDiverged
      else .ok { v with buf := correct n l p v.buf i q, c := v.c + 1, changed := true }
    else .ok v

/-- The offset loop over the offsets still to come in this pass (R176, R177). -/
def encodeOffsets (mc n l p : Nat) : List Nat → EncodeVars → Except ErrCode EncodeVars
  | [], v => .ok v
  | i :: rest, v =>
    match encodeOffset mc n l p i v with
    | .error e => .error e
    | .ok v' => encodeOffsets mc n l p rest v'

/-- One pass (R176): a full left-to-right scan over the offsets fixed by `n` and `l`. -/
def encodePass (mc n l p : Nat) (v : EncodeVars) : Except ErrCode EncodeVars :=
  encodeOffsets mc n l p (offsets (n + 1) l) { v with pass := v.pass + 1, changed := false }

/-- The pass loop (R176, R178): passes until one applies no correction, `fuel` passes at most. R184 bounds the passes by
`MAX_CORR(n) + 1`, so with that fuel the answer at 0 is never reached (DEDUCED, log 7). -/
def encodeLoop (mc n l p : Nat) : Nat → EncodeVars → Except ErrCode EncodeVars
  | 0, _ => .error .encodingDiverged
  | fuel + 1, v =>
    match encodePass mc n l p v with
    | .error e => .error e
    | .ok v' => if v'.changed then encodeLoop mc n l p fuel v' else .ok v'

/-- The variables before the first pass: the payload and the terminator 1 (R172), no correction, no pass. -/
def encodeStart (payload : Bits) : EncodeVars where
  buf := payload ++ [true]
  c := 0
  pass := 0
  changed := false

/-- `EncodeCore(payload, n, l, p)` (R176): the variables when the loop ends, or the error that ended it. -/
def encodeCore (mc n l p : Nat) (payload : Bits) : Except ErrCode EncodeVars :=
  encodeLoop mc n l p (mc + 1) (encodeStart payload)

/-- ENCODE (R180) for any parameters. -/
def encodeAt (P : Params) (s : State) : Result :=
  withBuf .encode s fun b =>
    if ValidParams P.nmax s.n.toNat s.l.toNat s.p.toNat then
      if b.length = s.n.toNat then
        match encodeCore (P.maxCorr s.n.toNat) s.n.toNat s.l.toNat s.p.toNat b with
        | .error e => raiseExec e s
        | .ok v => complete false ((s.setBuf v.buf).setRes (zext v.c))
      else raiseCheck .precondition s
    else raiseCheck .precondition s

/-- ENCODE (R180). -/
def execEncode (s : State) : Result := encodeAt Config.params s

end Sys2Proof.Machine
end

