-- ==== Sys2Proof/Machine/Dispatch.lean ====
section
/-! DEFINITION. The dispatch of the eight commands to their meanings (spec 30_encoding.md R71). -/

namespace Sys2Proof.Machine

def exec (i : Instr) (s : State) : Host.Outcome State Fault Refusal :=
  match i with
  | .tobits => Sys2Proof.Machine.execTobits s
  | .frombits => Sys2Proof.Machine.execFrombits s
  | .zfunc => Sys2Proof.Machine.execZfunc s
  | .periods => Sys2Proof.Machine.execPeriods s
  | .minperiod => Sys2Proof.Machine.execMinperiod s
  | .scan => Sys2Proof.Machine.execScan s
  | .encode => Sys2Proof.Machine.execEncode s
  | .decode => Sys2Proof.Machine.execDecode s

end Sys2Proof.Machine
end

