-- ==== Sys2Proof/Machine/HostPort.lean ====
section
/-!
DEFINITION. The host's actions (spec 20_memory.md R51 to R59; 30_encoding.md R72, R73; 70_reset_and_hazards.md R280, R288).
-/

namespace Sys2Proof.Machine

/-- The register an access reaches, or why it is refused (R52; the order of the three tests is a DESIGN CHOICE, log 11). -/
def selectReg (size : AccessSize) (offset : BitVec 8) : Except Refusal Reg :=
  if size = .word then
    if offset.toNat % 4 = 0 then
      match regAt offset with
      | some r => .ok r
      | none => .error .reservedOffset
    else .error .misalignedAccess
  else .error .subWordAccess

/-- A register read (R59): it returns the value and changes no state of the block. -/
def readWord (size : AccessSize) (offset : BitVec 8) (s : State) : Result :=
  match selectReg size offset with
  | .error r => .refused r
  | .ok reg =>
    match readReg reg s with
    | .error f => .fault f
    | .ok v => .next (s.reply (.word v))

/-- A write to CMD (R23, R72, R73): an illegal word raises ILLEGAL_COMMAND, a legal one runs its command. -/
def issueCommand (run : Instr → State → Result) (word : Word) (s : State) : Result :=
  match decode word with
  | .error _ => illegalCommand s
  | .ok i => run i s

/-- A register write (R42, R43, R59): at CMD it issues a command, the only register access with a side effect. -/
def writeWord (run : Instr → State → Result) (size : AccessSize) (offset : BitVec 8) (v : Word) (s : State) : Result :=
  match selectReg size offset with
  | .error r => .refused r
  | .ok reg => if reg = .cmd then issueCommand run v s else .next (writeReg reg v s)

/-- LOAD_BUF (R54), for any parameters. -/
def loadBufAt (P : Params) (bits : Bits) (s : State) : Result :=
  if bits.length ≤ P.nmax + 1 then .next (s.setBuf bits) else .refused .loadTooLong

/-- READ_BUF (R55). -/
def readBuf (s : State) : Result :=
  match s.buf with
  | some b => .next (s.reply (.bits b))
  | none => .fault .readPoisonedBuf

/-- One host action, for any parameters and any meaning of the commands (R58, R288). -/
def performWith (P : Params) (run : Instr → State → Result) (act : HostAction) (s : State) : Result :=
  match act with
  | .read size offset => readWord size offset s
  | .write size offset v => writeWord run size offset v s
  | .loadBuf bits => loadBufAt P bits s
  | .readBuf => readBuf s
  | .readZout => .next (s.reply (.nats s.zout))
  | .readPset => .next (s.reply (.bits s.pset))
  | .reset => .next (resetBlock s)

/-- One host action on this machine. -/
def perform (act : HostAction) (s : State) : Result := performWith Config.params exec act s

/-- The next action of the host's script is taken from it and performed by `act`. With nothing left to do the block is
idle and its state holds (R268, R281; DESIGN CHOICE, log 1). -/
def stepScript (act : HostAction → State → Result) (s : State) : Result :=
  match s.script with
  | [] => .next s
  | a :: rest => act a (s.setScript rest)

/-- The command word `w`, its bits above `nbits` zero, as the host's next action: a write to CMD (log 1). -/
def commandWrite (nbits w : Nat) : HostAction :=
  .write .word (regOffset .cmd) (BitVec.ofNat 32 (w % 2 ^ nbits))

end Sys2Proof.Machine
end

