-- ==== Sys2Proof/Machine/Step.lean ====
section
/-!
DEFINITION. The step: one host action (spec 20_memory.md R58; 70_reset_and_hazards.md R288, R289).
-/

namespace Sys2Proof.Machine

/-- One step performs the host's next action (R58, R289); an idle block holds its state (R268). -/
def step (s : State) : Host.Outcome State Fault Refusal := stepScript perform s

/-- `s` with the host about to write the command word `w` to CMD, so that the next step runs it. The block fetches no
instructions (R34, R281): a command reaches it only as a CMD write (log 1). -/
def State.withFetchWord (s : State) (nbits w : Nat) : State := s.setScript (commandWrite nbits w :: s.script)

end Sys2Proof.Machine
end

