-- ==== Sys2Proof/Machine/AnyParams.lean ====
section
/-!
DEFINITION. The same machine with the parameters of spec 00_scope.md R7 as an argument. `exec` and `step` are this machine
at `Config.params` (proved in Laws/Params.lean); at concrete parameters it runs, so vectors can be tested on it.
-/

namespace Sys2Proof.Machine

/-- `exec` for any parameters. -/
def execAt (P : Params) (i : Instr) (s : State) : Result :=
  match i with
  | .tobits => tobitsAt P s
  | .frombits => execFrombits s
  | .zfunc => execZfunc s
  | .periods => execPeriods s
  | .minperiod => execMinperiod s
  | .scan => execScan s
  | .encode => encodeAt P s
  | .decode => decodeAt P s

/-- One host action, for any parameters. -/
def performAt (P : Params) (act : HostAction) (s : State) : Result := performWith P (execAt P) act s

/-- `step` for any parameters. -/
def stepAt (P : Params) (s : State) : Result := stepScript (performAt P) s

end Sys2Proof.Machine
end

