-- ==== Sys2Proof/Machine/LoopTrace.lean ====
section
/-!
DEFINITION. The points ENCODE's and DECODE's loops pass, as relations written from the pseudocode and not from the functions
that compute the loops (spec 43_encoder.md R176 to R178; 44_decoder.md R211). MAX_CORR has no part in them: it says only where
a loop is cut off (R179, R218).
-/

namespace Sys2Proof.Machine

/-- `EncodeReaches n l p payload pass i c changed buf`: ENCODE's loop comes to offset `i` of its pass number `pass` with `c`
corrections applied, one of them in this pass exactly if `changed`, and with the working buffer `buf`. These are the four
variables of 10_state.md R38. An offset of `n + 2 - l` is the end of a pass. -/
inductive EncodeReaches (n l p : Nat) (payload : Bits) : Nat → Nat → Nat → Bool → Bits → Prop where
  /-- The first pass begins on the payload and the terminator 1 (R172, R176). -/
  | start : EncodeReaches n l p payload 1 0 0 false (payload ++ [true])
  /-- A window that does not violate is left, and the scan goes on at the next offset (R176). -/
  | keep (pass i c : Nat) (changed : Bool) (buf : Bits) (q : Nat) (before : EncodeReaches n l p payload pass i c changed buf)
      (offset_ok : i ≤ n + 1 - l) (minimal : computeMinPeriod (window buf i l) = some q) (fine : p ≤ q) :
      EncodeReaches n l p payload pass (i + 1) c changed buf
  /-- A violating window is corrected, and the same pass goes on at the next offset, on the corrected buffer (R177). -/
  | fix (pass i c : Nat) (changed : Bool) (buf : Bits) (q : Nat) (before : EncodeReaches n l p payload pass i c changed buf)
      (offset_ok : i ≤ n + 1 - l) (minimal : computeMinPeriod (window buf i l) = some q) (violation : q < p) :
      EncodeReaches n l p payload pass (i + 1) (c + 1) true (correct n l p buf i q)
  /-- A pass that applied a correction leads to one more pass, from offset 0 (R178). -/
  | again (pass c : Nat) (buf : Bits) (before : EncodeReaches n l p payload pass (n + 2 - l) c true buf) :
      EncodeReaches n l p payload (pass + 1) 0 c false buf

/-- `DecodeReaches n l p enc r buf`: DECODE's loop comes to its test of the last bit with `r` records undone and the buffer
`buf` (R211; 10_state.md R39). -/
inductive DecodeReaches (n l p : Nat) (enc : Bits) : Nat → Bits → Prop where
  /-- Before the first round (R211). -/
  | start : DecodeReaches n l p enc 0 enc
  /-- A last bit 0 says that a record remains, and one round undoes it (R211 steps 1a to 1f). -/
  | next (r : Nat) (buf buf' : Bits) (before : DecodeReaches n l p enc r buf) (remains : bitAt buf n = false)
      (undone : undo n l p buf = .ok buf') : DecodeReaches n l p enc (r + 1) buf'

end Sys2Proof.Machine
end

