-- ==== Sys2Proof/Machine/Platform.lean ====
section
/-!
DEFINITION. A platform around the block: several instances, each at its own PCE_BASE (spec 20_memory.md R51, R65, R66;
60_exceptions.md R266), and the byte lanes of a register (20_memory.md R53). No rule of the block depends on these.
-/

namespace Sys2Proof.Machine

/-- One instance of the block and the base address of its register space (R51, R266). -/
structure PceInstance where
  /-- `PCE_BASE` of this instance. -/
  base : Nat
  /-- Its registers and arrays (R66). -/
  core : State
deriving DecidableEq, Repr

/-- The instances of a platform (R266). -/
abbrev Platform := List PceInstance

/-- Where a platform address falls in an instance's 256-byte register space (R51), if it does. -/
def offsetIn (u : PceInstance) (addr : Nat) : Option (BitVec 8) :=
  if u.base ≤ addr ∧ addr < u.base + 256 then some (BitVec.ofNat 8 (addr - u.base)) else none

/-- The first instance whose register space holds an address, and the offset there. -/
def locate : Platform → Nat → Option (Nat × BitVec 8)
  | [], _ => none
  | u :: rest, addr =>
    match offsetIn u addr with
    | some o => some (0, o)
    | none => (locate rest addr).map fun (i, o) => (i + 1, o)

/-- One host action on instance number `i`: that instance alone changes (R66, R266). `none` where there is no such
instance. -/
def platformPerform (pf : Platform) (i : Nat) (act : HostAction) : Option (Host.Outcome Platform Fault Refusal) :=
  match pf[i]? with
  | none => none
  | some u =>
    match perform act u.core with
    | .next t => some (.next (pf.set i { u with core := t }))
    | .fault f => some (.fault f)
    | .refused r => some (.refused r)

/-- The four bytes of a register's value on a bus's lanes, lane 0 first, in the given order (R53). -/
def toLanes (o : ByteOrder) (v : Word) : List (BitVec 8) :=
  let up := [v.extractLsb' 0 8, v.extractLsb' 8 8, v.extractLsb' 16 8, v.extractLsb' 24 8]
  match o with
  | .little => up
  | .big => up.reverse

/-- The value four lanes carry, lane 0 first, in the given order (R53). -/
def fromLanes (o : ByteOrder) (b0 b1 b2 b3 : BitVec 8) : Word :=
  match o with
  | .little => b3 ++ (b2 ++ (b1 ++ b0))
  | .big => b0 ++ (b1 ++ (b2 ++ b3))

/-- A register's value on the lanes of this platform's bus, whose order is the parameter BUS_ENDIAN (R53). -/
def busLanes (v : Word) : List (BitVec 8) := toLanes Config.busEndian v

end Sys2Proof.Machine
end

