-- ==== Sys2Proof/Machine/Script.lean ====
section
/-!
DEFINITION. Host scripts: what each statement and pseudo-instruction stands for (spec 30_encoding.md R90, R91).
-/

namespace Sys2Proof.Machine

/-- `WR <reg>, <value>` as a bus access: a whole word at the register's offset. -/
def writeAction (r : Reg) (v : Nat) : HostAction := .write .word (regOffset r) (zext v)

/-- The host actions a statement stands for (R90, R91). -/
def expand : Stmt → List HostAction
  | .wr r v => [writeAction r v]
  | .rd r => [.read .word (regOffset r)]
  | .load bits => [.loadBuf bits]
  | .rdbuf => [.readBuf]
  | .rdz => [.readZout]
  | .rdpset => [.readPset]
  | .reset => [.reset]
  | .issue i => [.write .word (regOffset .cmd) (encode i)]
  | .cmd v => [writeAction .cmd v]
  | .setup n p => [writeAction .n n, writeAction .p p, writeAction .l (p + clog2 n + 1)]
  | .win a w => [writeAction .a a, writeAction .w w]

/-- The host actions of a whole script, in order. -/
def assemble (stmts : List Stmt) : List HostAction := stmts.flatMap expand

end Sys2Proof.Machine
end

