-- ==== Sys2Proof/Machine/StreamFormat.lean ====
section
/-!
DEFINITION. The encoded-stream format: the history of corrections (spec 30_encoding.md R80 to R86).
-/

namespace Sys2Proof.Machine

/-- `EncodedStream n l p payload j S`: `S` is a stream `S_j` of R80 and R81, after `j` corrections. The format is this
history and nothing else (R81, R86): no record but the last need stand intact in `S`. -/
inductive EncodedStream (n l p : Nat) (payload : Bits) : Nat → Bits → Prop where
  /-- `S_0` is the payload and the terminator 1 (R80). -/
  | start : EncodedStream n l p payload 0 (payload ++ [true])
  /-- `S_(j+1) = Correct(S_j, i, q)`, where `q < p` is the minimal period of the window at the offset `i` (R81). -/
  | next (j i q : Nat) (S : Bits) (history : EncodedStream n l p payload j S) (offset_ok : i ≤ n + 1 - l)
      (minimal : computeMinPeriod (window S i l) = some q) (violation : q < p) :
      EncodedStream n l p payload (j + 1) (correct n l p S i q)

end Sys2Proof.Machine
end

