-- ==== Sys2Proof/Machine/ZAlgorithm.lean ====
section
/-!
DEFINITION. The linear-time Z algorithm R123 gives for reference (spec 41_period_analyzer.md R123; G1). No command calls it:
its result is that of `computeZ` (R123), which is stated as an obligation.
-/

namespace Sys2Proof.Machine

/-- The algorithm's variables (R123): the list `z`, and the match window `s[lw .. rw-1]`, `rw` the rightmost end found. -/
structure ZVars where
  z : List Nat
  lw : Nat
  rw : Nat
deriving DecidableEq, Repr

/-- The inner loop of R123: while the bits at `t` and `i + t` agree, lengthen the match. At most `fuel` rounds. -/
def zExtend (s : Bits) (i : Nat) : Nat → Nat → Nat
  | 0, t => t
  | fuel + 1, t => if i + t < s.length ∧ bitAt s t = bitAt s (i + t) then zExtend s i fuel (t + 1) else t

/-- The start value of `z[i]` (R123): taken over from the match window where position `i` lies inside it. -/
def zStart (v : ZVars) (i : Nat) : Nat := if i < v.rw then min (v.rw - i) (v.z.getD (i - v.lw) 0) else 0

/-- One round of the outer loop of R123, at position `i`. -/
def zRound (s : Bits) (i : Nat) (v : ZVars) : ZVars :=
  let t := zExtend s i s.length (zStart v i)
  if v.rw < i + t then { z := v.z.set i t, lw := i, rw := i + t } else { v with z := v.z.set i t }

/-- The linear-time Z-function of R123. -/
def linearZ (s : Bits) : List Nat :=
  let m := s.length
  (forFrom (zRound s) 1 (m - 1) { z := (List.replicate m 0).set 0 m, lw := 0, rw := 0 }).z

end Sys2Proof.Machine
end

