-- ==== Sys2Proof/Safety.lean ====
section
/-!
DEFINITION. What a legal state and a successful run are (spec 10_state.md R24, R31, R32, R35 to R37;
70_reset_and_hazards.md R287).
-/

namespace Sys2Proof.Machine

/-- The values R24 lets STATUS hold: bits 31:4 zero, ERR at most 5, and VF only without an error (R74). -/
structure StatusLegal (st : Word) : Prop where
  rsvd_zero : statusRsvd st = 0#28
  err_le : (statusErr st).toNat ≤ 5
  vf_no_err : statusVf st = true → statusErr st = errBits .noError

/-- The invariant of the architectural state for given parameters. -/
structure Inv (P : Params) (s : State) : Prop where
  /-- STATUS is legal (R24). -/
  status_legal : StatusLegal s.status
  /-- BUF holds at most NMAX + 1 bits (R31, R35). -/
  buf_fits : ∀ b, s.buf = some b → b.length ≤ P.nmax + 1
  /-- While BUF is ⊥, so is RES (R32, R254): only an execution-phase error poisons BUF, and it poisons both. -/
  poison_res : s.buf = none → s.res = none
  /-- While BUF is ⊥, the last command ended in an error other than EMPTY_INPUT: no command that could do otherwise
  runs without BUF being written (R32). -/
  poison_err : s.buf = none → 2 ≤ (statusErr s.status).toNat
  /-- ZOUT is no longer than a window can be, and its entries are at most its length (R36). -/
  zout_fits : s.zout.length ≤ P.nmax + 1
  zout_entries : ∀ z ∈ s.zout, z ≤ s.zout.length
  /-- ZOUT[0] is the window's length (R122). -/
  zout_head : ∀ z rest, s.zout = z :: rest → z = s.zout.length
  /-- PSET has at most NMAX + 2 bits, and `PSET[0] = 0` (R37). -/
  pset_fits : s.pset.length ≤ P.nmax + 2
  pset_zero : s.pset.head? ≠ some true
  /-- The window's own length is always one of the periods PSET holds (R129), where the window is not empty. -/
  pset_last : 2 ≤ s.pset.length → s.pset.getLast? = some true

/-- A run ends successfully (R287): from the start state `s`, every action of its script is performed, none faulting or
refused, and `t` is the end state. -/
def RunSucceeds (s t : State) : Prop := Host.Core.run Sys2Proof.core s.script.length s = .next t

/-- A run fails (R287): it has no end state. -/
def RunFails (s : State) : Prop := ∀ t, ¬ RunSucceeds s t

end Sys2Proof.Machine
end

