-- ==== Sys2Proof/Certificates/Slice0/Obligations.lean ====
section
/-!
DEFINITION. The statements for the provers. Each docstring names the rule or the section of spec/ it rests on. The
statements on `execAt P` hold for every legal value of the parameters NMAX and MAX_CORR (00_scope.md R7); `exec` is `execAt`
at this machine's own (Laws/Params.lean).
-/

open Sys2Proof Sys2Proof.Machine

/-! ## Encoding -/

/-- R71: which words select a command, and which one each selects. -/
def Obligations.OpcodeMap : Prop :=
  (∀ w : Word, (∃ i, decode w = .ok i) ↔ (w.toNat / 16 = 0 ∧ 1 ≤ w.toNat % 16 ∧ w.toNat % 16 ≤ 8)) ∧
  decode 0x00000001#32 = .ok .tobits ∧ decode 0x00000002#32 = .ok .frombits ∧
  decode 0x00000003#32 = .ok .zfunc ∧ decode 0x00000004#32 = .ok .periods ∧
  decode 0x00000005#32 = .ok .minperiod ∧ decode 0x00000006#32 = .ok .scan ∧
  decode 0x00000007#32 = .ok .encode ∧ decode 0x00000008#32 = .ok .decode

/-- Decode and encode agree on every command and on every word (30_encoding.md section 1): no two words are one command. -/
def Obligations.DecodeEncodeAgree : Prop :=
  ∀ i : Instr, i.wellFormed = true → decode (encode i) = .ok i ∧ ∀ w : Word, decode w = .ok i → w = encode i

/-- A few words of 30_encoding.md section 1, as a sanity statement: legal, reserved OP, reserved bit (95 section 7). -/
def Obligations.SampleWordsDecode : Prop :=
  decodeTableWord 32 0x1 = some .tobits ∧ decodeTableWord 32 0x3 = some .zfunc ∧
  decodeTableWord 32 0x6 = some .scan ∧ decodeTableWord 32 0x8 = some .decode ∧
  decodeTableWord 32 0x0 = none ∧ decodeTableWord 32 0x9 = none ∧ decodeTableWord 32 0x17 = none ∧
  decodeTableWord 32 0x80000008 = none

/-! ## The step and the host's actions -/

/-- A CMD write of a legal word is one step that runs exactly that command (30_encoding.md section 1; 20_memory.md
section 4). Around `exec` the step only takes the action from the script, the model's own field (log 1). -/
def Obligations.StepRunsDecodedCommand : Prop :=
  ∀ (s : State) (w : Word) (rest : List HostAction) (i : Instr),
    s.script = .write .word 0x00#8 w :: rest → decode w = .ok i → step s = exec i { s with script := rest }

/-- The host's next CMD write placed by `withFetchWord` is the command the next step runs (the model's choice, log 1). -/
def Obligations.FetchWordRunsCommand : Prop :=
  ∀ (s : State) (i : Instr), step (s.withFetchWord 32 (encode i).toNat) = exec i s

/-- R72: an illegal word raises ILLEGAL_COMMAND and changes nothing else, whatever the state, poisoned or not. -/
def Obligations.IllegalWordRaisesIllegalCommand : Prop :=
  ∀ (s : State) (w : Word) (rest : List HostAction),
    s.script = .write .word 0x00#8 w :: rest →
    (w.toNat / 16 ≠ 0 ∨ w.toNat % 16 = 0 ∨ 9 ≤ w.toNat % 16) →
    step s = .next { s with script := rest, status := 5#32 }

/-- With no action left the block is idle and its state holds (60_exceptions.md section 4; the model's choice of what a
step then is, log 1). -/
def Obligations.IdleBlockHoldsState : Prop := ∀ s : State, s.script = [] → step s = .next s

/-- Where each register stands (10_state.md section 2, the register map): ten offsets, and no register at any other. -/
def Obligations.RegisterMapOffsets : Prop :=
  regAt 0x00#8 = some .cmd ∧ regAt 0x04#8 = some .status ∧ regAt 0x08#8 = some .n ∧ regAt 0x0C#8 = some .p ∧
  regAt 0x10#8 = some .l ∧ regAt 0x14#8 = some .a ∧ regAt 0x18#8 = some .w ∧ regAt 0x1C#8 = some .res ∧
  regAt 0x20#8 = some .bufLen ∧ regAt 0x24#8 = some .k ∧
  (∀ offset : BitVec 8, (offset.toNat % 4 ≠ 0 ∨ 0x28 ≤ offset.toNat) → regAt offset = none) ∧
  (∀ (r : Reg) (offset : BitVec 8), regAt offset = some r ↔ offset = regOffset r)

/-- What a read at each register's offset returns (10_state.md section 2), and that it changes no state of the block. -/
def Obligations.RegisterReadReturns : Prop :=
  ∀ (s : State) (offset : BitVec 8) (rest : List HostAction), s.script = .read .word offset :: rest →
    (offset = 0x00#8 → step s = .next { s with script := rest, replies := s.replies ++ [.word 0#32] }) ∧
    (offset = 0x04#8 → step s = .next { s with script := rest, replies := s.replies ++ [.word s.status] }) ∧
    (offset = 0x08#8 → step s = .next { s with script := rest, replies := s.replies ++ [.word s.n] }) ∧
    (offset = 0x0C#8 → step s = .next { s with script := rest, replies := s.replies ++ [.word s.p] }) ∧
    (offset = 0x10#8 → step s = .next { s with script := rest, replies := s.replies ++ [.word s.l] }) ∧
    (offset = 0x14#8 → step s = .next { s with script := rest, replies := s.replies ++ [.word s.a] }) ∧
    (offset = 0x18#8 → step s = .next { s with script := rest, replies := s.replies ++ [.word s.w] }) ∧
    (offset = 0x1C#8 → ∀ v, s.res = some v →
      step s = .next { s with script := rest, replies := s.replies ++ [.word v] }) ∧
    (offset = 0x1C#8 → s.res = none → step s = .fault .readPoisonedRes) ∧
    (offset = 0x20#8 → ∀ b, s.buf = some b →
      step s = .next { s with script := rest, replies := s.replies ++ [.word (BitVec.ofNat 32 b.length)] }) ∧
    (offset = 0x20#8 → s.buf = none → step s = .fault .readPoisonedBufLen) ∧
    (offset = 0x24#8 → ∀ k, s.n.toNat ≤ 2 ^ k → (∀ j, s.n.toNat ≤ 2 ^ j → k ≤ j) →
      step s = .next { s with script := rest, replies := s.replies ++ [.word (BitVec.ofNat 32 k)] })

/-- A write at an operand register's offset stores any 32-bit value in that register alone, and a read right after it
returns that value (10_state.md sections 2 and 6). -/
def Obligations.OperandWriteThenRead : Prop :=
  ∀ (s : State) (offset : BitVec 8) (v : Word) (rest : List HostAction),
    offset = 0x08#8 ∨ offset = 0x0C#8 ∨ offset = 0x10#8 ∨ offset = 0x14#8 ∨ offset = 0x18#8 →
    s.script = .write .word offset v :: .read .word offset :: rest →
    ∃ t : State, step s = .next t ∧
      t = { s with
            script := .read .word offset :: rest
            n := if offset = 0x08#8 then v else s.n
            p := if offset = 0x0C#8 then v else s.p
            l := if offset = 0x10#8 then v else s.l
            a := if offset = 0x14#8 then v else s.a
            w := if offset = 0x18#8 then v else s.w } ∧
      step t = .next { t with script := rest, replies := s.replies ++ [.word v] }

/-- R43: writes to read-only registers, the read of CMD, reads without side effect, and CMD as the only register with
one: a write anywhere else stores its value in the one operand register that stands there, or nothing. -/
def Obligations.ReadOnlyRegistersIgnoreWrites : Prop :=
  ∀ (s : State) (rest : List HostAction),
    (∀ (offset : BitVec 8) (v : Word), offset = 0x04#8 ∨ offset = 0x1C#8 ∨ offset = 0x20#8 ∨ offset = 0x24#8 →
      s.script = .write .word offset v :: rest → step s = .next { s with script := rest }) ∧
    (s.script = .read .word 0x00#8 :: rest →
      step s = .next { s with script := rest, replies := s.replies ++ [.word 0#32] }) ∧
    (∀ (size : AccessSize) (offset : BitVec 8) (t : State), s.script = .read size offset :: rest → step s = .next t →
      ∃ v, t = { s with script := rest, replies := s.replies ++ [.word v] }) ∧
    (∀ (offset : BitVec 8) (v : Word), offset.toNat % 4 = 0 → offset ≠ 0x00#8 → offset.toNat ≤ 0x24 →
      s.script = .write .word offset v :: rest →
      step s = .next { s with
        script := rest
        n := if offset = 0x08#8 then v else s.n
        p := if offset = 0x0C#8 then v else s.p
        l := if offset = 0x10#8 then v else s.l
        a := if offset = 0x14#8 then v else s.a
        w := if offset = 0x18#8 then v else s.w })

/-- Which register accesses are refused (20_memory.md section 1): exactly the sub-word, misaligned and reserved-offset
ones. A word access to a register is never refused. -/
def Obligations.AccessRefusedExactlyWhenIllegal : Prop :=
  ∀ (s : State) (size : AccessSize) (offset : BitVec 8) (v : Word) (rest : List HostAction),
    s.script = .read size offset :: rest ∨ s.script = .write size offset v :: rest →
    ((∃ r, step s = .refused r) ↔ (size ≠ .word ∨ offset.toNat % 4 ≠ 0 ∨ 0x28 ≤ offset.toNat))

/-- R54: LOAD_BUF sets BUF and BUF_LEN, clears their poison, and changes nothing else; one bit too many is refused. -/
def Obligations.LoadBufRule : Prop :=
  ∀ (s : State) (bits : Bits) (rest : List HostAction), s.script = .loadBuf bits :: rest →
    (bits.length ≤ Config.params.nmax + 1 →
      step s = .next { s with script := rest, buf := some bits } ∧
      readReg .bufLen { s with script := rest, buf := some bits } = .ok (BitVec.ofNat 32 bits.length)) ∧
    (Config.params.nmax + 1 < bits.length → ∃ r, step s = .refused r)

/-- R55, R56, R57: the array reads return the whole array and change no state; nothing the host does but a command or a
reset writes ZOUT or PSET. -/
def Obligations.ArrayReadRules : Prop :=
  ∀ (s : State) (rest : List HostAction),
    (∀ b, s.script = .readBuf :: rest → s.buf = some b →
      step s = .next { s with script := rest, replies := s.replies ++ [.bits b] }) ∧
    (s.script = .readBuf :: rest → s.buf = none → ∃ f, step s = .fault f) ∧
    (s.script = .readZout :: rest →
      step s = .next { s with script := rest, replies := s.replies ++ [.nats s.zout] }) ∧
    (s.script = .readPset :: rest →
      step s = .next { s with script := rest, replies := s.replies ++ [.bits s.pset] }) ∧
    (∀ (act : HostAction) (t : State), s.script = act :: rest → act ≠ .reset →
      (∀ v, act ≠ .write .word 0x00#8 v) → step s = .next t → t.zout = s.zout ∧ t.pset = s.pset)

/-- R41: the reset values, in the state after reset and after a RESET action from any state. -/
def Obligations.ResetValues : Prop :=
  ∀ (s : State) (rest : List HostAction), s.script = .reset :: rest →
    ∃ t : State, step s = .next t ∧
      ∀ u : State, u = t ∨ u = State.reset →
        u.status = 0#32 ∧ u.n = 0#32 ∧ u.p = 0#32 ∧ u.l = 0#32 ∧ u.a = 0#32 ∧ u.w = 0#32 ∧
        u.res = some 0#32 ∧ u.buf = some [] ∧ u.zout = [] ∧ u.pset = [] ∧
        readReg .cmd u = .ok 0#32 ∧ readReg .bufLen u = .ok 0#32 ∧ readReg .k u = .ok 0#32

/-- R91's SETUP and WIN, run as host actions (30_encoding.md section 4): the host computes `l` itself. -/
def Obligations.SetupAndWinWriteOperands : Prop :=
  ∀ (s : State) (rest : List HostAction),
    (∀ n p, (Stmt.setup n p).wellFormed = true → s.script = expand (.setup n p) ++ rest →
      Host.Core.run Sys2Proof.core 3 s =
        .next { s with
          script := rest
          n := BitVec.ofNat 32 n
          p := BitVec.ofNat 32 p
          l := BitVec.ofNat 32 (p + clog2 n + 1) }) ∧
    (∀ a w, (Stmt.win a w).wellFormed = true → s.script = expand (.win a w) ++ rest →
      Host.Core.run Sys2Proof.core 2 s =
        .next { s with script := rest, a := BitVec.ofNat 32 a, w := BitVec.ofNat 32 w }) ∧
    (∀ i, s.script = expand (.issue i) ++ rest → step s = exec i { s with script := rest })

/-! ## The commands -/

/-- R103: TOBITS, poisoned BUF or not. -/
def Obligations.TobitsRule : Prop :=
  ∀ s : State,
    (s.w.toNat ≤ Config.params.nmax + 1 →
      ∃ b : Bits, exec .tobits s = .next { s with buf := some b, status := 0#32 } ∧ b.length = s.w.toNat ∧
        (∀ j, j < s.w.toNat → (bitAt b j = true ↔ s.a.toNat / 2 ^ j % 2 = 1)) ∧
        readReg .bufLen { s with buf := some b, status := 0#32 } = .ok s.w) ∧
    (Config.params.nmax + 1 < s.w.toNat → exec .tobits s = .next { s with status := 4#32 })

/-- R104: FROMBITS, its checks in order and its value. -/
def Obligations.FrombitsRule : Prop :=
  ∀ s : State,
    (∀ b, s.buf = some b → s.a.toNat + s.w.toNat ≤ b.length → s.w.toNat ≤ 32 →
      ∃ v : Word, exec .frombits s = .next { s with res := some v, status := 0#32 } ∧
        v.toNat = ∑ j ∈ Finset.range s.w.toNat, (bitAt b (s.a.toNat + j)).toNat * 2 ^ j) ∧
    (∀ b, s.buf = some b → (b.length < s.a.toNat + s.w.toNat ∨ 32 < s.w.toNat) →
      exec .frombits s = .next { s with status := 4#32 }) ∧
    (s.buf = none → ∃ f, exec .frombits s = .fault f)

/-- R128: ZFUNC writes the Z values, as R121 defines them, of the window. -/
def Obligations.ZfuncRule : Prop :=
  ∀ s : State,
    (∀ b, s.buf = some b → s.a.toNat + s.w.toNat ≤ b.length →
      ∃ z : List Nat, exec .zfunc s = .next { s with zout := z, status := 0#32 } ∧ z.length = s.w.toNat ∧
        ∀ i t, z[i]? = some t → IsZValue (slice b s.a.toNat s.w.toNat) i t) ∧
    (∀ b, s.buf = some b → b.length < s.a.toNat + s.w.toNat → exec .zfunc s = .next { s with status := 4#32 }) ∧
    (s.buf = none → ∃ f, exec .zfunc s = .fault f)

/-- R129: PERIODS writes the characteristic vector of the window's periods, as R124 defines them. -/
def Obligations.PeriodsRule : Prop :=
  ∀ s : State,
    (∀ b, s.buf = some b → s.a.toNat + s.w.toNat ≤ b.length →
      ∃ ps : Bits, exec .periods s = .next { s with pset := ps, status := 0#32 } ∧ ps.length = s.w.toNat + 1 ∧
        ∀ q, q ≤ s.w.toNat → (bitAt ps q = true ↔ IsPeriod (slice b s.a.toNat s.w.toNat) q)) ∧
    (∀ b, s.buf = some b → b.length < s.a.toNat + s.w.toNat → exec .periods s = .next { s with status := 4#32 }) ∧
    (s.buf = none → ∃ f, exec .periods s = .fault f)

/-- R130: MINPERIOD writes the least period of the window; the window's fit is tested before its emptiness. -/
def Obligations.MinperiodRule : Prop :=
  ∀ s : State,
    (∀ b, s.buf = some b → s.a.toNat + s.w.toNat ≤ b.length → 1 ≤ s.w.toNat →
      ∃ v : Word, exec .minperiod s = .next { s with res := some v, status := 0#32 } ∧ v.toNat ≤ s.w.toNat ∧
        IsPeriod (slice b s.a.toNat s.w.toNat) v.toNat ∧
        ∀ q, IsPeriod (slice b s.a.toNat s.w.toNat) q → v.toNat ≤ q) ∧
    (∀ b, s.buf = some b → s.a.toNat + s.w.toNat ≤ b.length → s.w.toNat = 0 →
      exec .minperiod s = .next { s with status := 1#32 }) ∧
    (∀ b, s.buf = some b → b.length < s.a.toNat + s.w.toNat → exec .minperiod s = .next { s with status := 4#32 }) ∧
    (s.buf = none → ∃ f, exec .minperiod s = .fault f)

/-- R155: SCAN reports the least offset whose window has a period below P. -/
def Obligations.ScanRule : Prop :=
  ∀ s : State,
    (∀ b, s.buf = some b → 1 ≤ s.p.toNat → s.p.toNat ≤ s.l.toNat → s.l.toNat ≤ b.length →
      (∀ i q, i + s.l.toNat ≤ b.length → q < s.p.toNat → ¬ IsPeriod (slice b i s.l.toNat) q) →
      exec .scan s = .next { s with res := some 0#32, status := 0#32 }) ∧
    (∀ b f qf, s.buf = some b → 1 ≤ s.p.toNat → s.p.toNat ≤ s.l.toNat → f + s.l.toNat ≤ b.length →
      qf < s.p.toNat → IsPeriod (slice b f s.l.toNat) qf →
      (∀ i q, i < f → q < s.p.toNat → ¬ IsPeriod (slice b i s.l.toNat) q) →
      exec .scan s = .next { s with res := some (BitVec.ofNat 32 f), status := 8#32 }) ∧
    (∀ b, s.buf = some b → (s.p.toNat = 0 ∨ s.l.toNat < s.p.toNat ∨ b.length < s.l.toNat) →
      exec .scan s = .next { s with status := 4#32 }) ∧
    (s.buf = none → ∃ f, exec .scan s = .fault f)

/-- R180: ENCODE's checks in order, what it writes when the loop of R176 ends, and its errors, for all parameters. The loop
ends after a pass without a correction, and it is cut off exactly on a violation found after MAX_CORR(n) corrections. -/
def Obligations.EncodeRule : Prop :=
  ∀ (P : Params) (s : State),
    (∀ b v, s.buf = some b → ValidParams P.nmax s.n.toNat s.l.toNat s.p.toNat → b.length = s.n.toNat →
      encodeCore (P.maxCorr s.n.toNat) s.n.toNat s.l.toNat s.p.toNat b = .ok v →
      v.buf.length = s.n.toNat + 1 ∧ v.c ≤ P.maxCorr s.n.toNat ∧
      EncodeReaches s.n.toNat s.l.toNat s.p.toNat b v.pass (s.n.toNat + 2 - s.l.toNat) v.c false v.buf ∧
      execAt P .encode s =
        .next { s with buf := some v.buf, res := some (BitVec.ofNat 32 v.c), status := 0#32 }) ∧
    (∀ b e, s.buf = some b → ValidParams P.nmax s.n.toNat s.l.toNat s.p.toNat → b.length = s.n.toNat →
      encodeCore (P.maxCorr s.n.toNat) s.n.toNat s.l.toNat s.p.toNat b = .error e →
      (∃ pass i changed buf q,
        EncodeReaches s.n.toNat s.l.toNat s.p.toNat b pass i (P.maxCorr s.n.toNat) changed buf ∧
        i ≤ s.n.toNat + 1 - s.l.toNat ∧ computeMinPeriod (window buf i s.l.toNat) = some q ∧ q < s.p.toNat) ∧
      execAt P .encode s = .next { s with buf := none, res := none, status := 2#32 }) ∧
    (∀ b, s.buf = some b → ¬ ValidParams P.nmax s.n.toNat s.l.toNat s.p.toNat →
      execAt P .encode s = .next { s with status := 4#32 }) ∧
    (∀ b, s.buf = some b → b.length ≠ s.n.toNat → execAt P .encode s = .next { s with status := 4#32 }) ∧
    (s.buf = none → ∃ f, execAt P .encode s = .fault f)

/-- ENCODE completes on this machine (43_encoder.md sections 4 and 5): with every check met, when the terminated payload
satisfies the constraint, and in general whenever the pass loop ends without error. That RES equals the correction count
rests on MAX_CORR(n) being below 2^31, the model's DEDUCED bound inside `Config.params` (log 4, unsafe). -/
def Obligations.EncodeCompletes : Prop :=
  ∀ (s : State) (b : Bits), s.buf = some b → b.length = s.n.toNat →
    ValidParams Config.params.nmax s.n.toNat s.l.toNat s.p.toNat →
    (Sat (b ++ [true]) s.l.toNat s.p.toNat →
      exec .encode s = .next { s with buf := some (b ++ [true]), res := some 0#32, status := 0#32 }) ∧
    (∀ v, encodeCore (Config.params.maxCorr s.n.toNat) s.n.toNat s.l.toNat s.p.toNat b = .ok v →
      ∃ c : Word, c.toNat = v.c ∧
        exec .encode s = .next { s with buf := some v.buf, res := some c, status := 0#32 })

/-- R210: DECODE's checks in order, what it writes when the loop of R211 ends, and its errors, for all parameters. -/
def Obligations.DecodeRule : Prop :=
  ∀ (P : Params) (s : State),
    (∀ b out r, s.buf = some b → ValidParams P.nmax s.n.toNat s.l.toNat s.p.toNat → b.length = s.n.toNat + 1 →
      decodeCore (P.maxCorr s.n.toNat) s.n.toNat s.l.toNat s.p.toNat b = .ok (out, r) →
      out.length = s.n.toNat ∧
      execAt P .decode s =
        .next { s with buf := some out, res := some (BitVec.ofNat 32 r), status := 0#32 }) ∧
    (∀ b e, s.buf = some b → ValidParams P.nmax s.n.toNat s.l.toNat s.p.toNat → b.length = s.n.toNat + 1 →
      decodeCore (P.maxCorr s.n.toNat) s.n.toNat s.l.toNat s.p.toNat b = .error e →
      execAt P .decode s = .next { s with buf := none, res := none, status := 3#32 }) ∧
    (∀ b, s.buf = some b → ¬ ValidParams P.nmax s.n.toNat s.l.toNat s.p.toNat →
      execAt P .decode s = .next { s with status := 4#32 }) ∧
    (∀ b, s.buf = some b → ValidParams P.nmax s.n.toNat s.l.toNat s.p.toNat → b.length ≠ s.n.toNat + 1 →
      execAt P .decode s = .next { s with status := 3#32 }) ∧
    (s.buf = none → ∃ f, execAt P .decode s = .fault f)

/-- DECODE completes on this machine (44_decoder.md sections 1 and 2): a stream that ends in 1 gives its first n bits,
and in general whenever the record loop ends without error. That RES equals the record count rests on MAX_CORR(n) being
below 2^31, the model's DEDUCED bound inside `Config.params` (log 4, unsafe). -/
def Obligations.DecodeCompletes : Prop :=
  ∀ (s : State) (b : Bits), s.buf = some b → b.length = s.n.toNat + 1 →
    ValidParams Config.params.nmax s.n.toNat s.l.toNat s.p.toNat →
    (bitAt b s.n.toNat = true →
      exec .decode s = .next { s with buf := some (slice b 0 s.n.toNat), res := some 0#32, status := 0#32 }) ∧
    (∀ out r, decodeCore (Config.params.maxCorr s.n.toNat) s.n.toNat s.l.toNat s.p.toNat b = .ok (out, r) →
      ∃ c : Word, c.toNat = r ∧ exec .decode s = .next { s with buf := some out, res := some c, status := 0#32 })

/-! ## Errors, poison and frames -/

/-- A command stops exactly on poison (10_state.md section 2): a command other than TOBITS faults while BUF is ⊥, and in
every other case the command ends in a next state. No command is refused. -/
def Obligations.CommandStopsExactlyOnPoison : Prop :=
  ∀ (i : Instr) (s : State),
    (i ≠ .tobits → s.buf = none → exec i s = .fault (.commandOnPoisonedBuf i)) ∧
    (i = .tobits ∨ s.buf ≠ none → ∃ t, exec i s = .next t)

/-- What an error leaves (60_exceptions.md section 2): a check-phase error changes STATUS alone; an execution-phase error,
which only ENCODE (code 2) and DECODE (code 3) have, also poisons BUF, BUF_LEN and RES. -/
def Obligations.ErrorEffectOnState : Prop :=
  ∀ (P : Params) (i : Instr) (s t : State), execAt P i s = .next t → statusErr t.status ≠ 0#3 →
    t = { s with status := t.status } ∨
    (t = { s with status := t.status, buf := none, res := none } ∧
      ((i = .encode ∧ t.status = 2#32) ∨ (i = .decode ∧ t.status = 3#32)))

/-- Which codes each command can leave in STATUS (60_exceptions.md section 1; 30_encoding.md section 1): bits 31:4 zero,
VF only from SCAN without an error, and of the error codes only the command's own. -/
def Obligations.StatusAfterCommand : Prop :=
  ∀ (P : Params) (i : Instr) (s t : State), execAt P i s = .next t →
    t.status = 0#32 ∨ t.status = 4#32 ∨ (i = .scan ∧ t.status = 8#32) ∨ (i = .minperiod ∧ t.status = 1#32) ∨
    (i = .encode ∧ t.status = 2#32) ∨ (i = .decode ∧ t.status = 3#32)

/-- The frame of every command (30_encoding.md section 2): no command writes an operand register, and each array and RES
is written only by the commands that list it. -/
def Obligations.CommandFrame : Prop :=
  ∀ (P : Params) (i : Instr) (s t : State), execAt P i s = .next t →
    t.n = s.n ∧ t.p = s.p ∧ t.l = s.l ∧ t.a = s.a ∧ t.w = s.w ∧ t.script = s.script ∧ t.replies = s.replies ∧
    (i ≠ .zfunc → t.zout = s.zout) ∧ (i ≠ .periods → t.pset = s.pset) ∧
    (i ≠ .tobits → i ≠ .encode → i ≠ .decode → t.buf = s.buf) ∧
    (i = .tobits ∨ i = .zfunc ∨ i = .periods → t.res = s.res)

/-- What a command reads (30_encoding.md section 2): two states that agree on a command's listed operands end with the
same STATUS and, on success, with the same values in what the command writes. -/
def Obligations.CommandReadsOnlyItsOperands : Prop :=
  ∀ (P : Params) (i : Instr) (s₁ s₂ t₁ : State),
    (i = .tobits ∨ i = .frombits ∨ i = .zfunc ∨ i = .periods ∨ i = .minperiod → s₁.a = s₂.a ∧ s₁.w = s₂.w) →
    (i = .scan ∨ i = .encode ∨ i = .decode → s₁.p = s₂.p ∧ s₁.l = s₂.l) →
    (i = .encode ∨ i = .decode → s₁.n = s₂.n) →
    (i ≠ .tobits → s₁.buf = s₂.buf) →
    execAt P i s₁ = .next t₁ →
    ∃ t₂, execAt P i s₂ = .next t₂ ∧ t₂.status = t₁.status ∧
      (statusErr t₁.status = 0#3 →
        (i = .tobits ∨ i = .encode ∨ i = .decode → t₂.buf = t₁.buf) ∧
        (i = .zfunc → t₂.zout = t₁.zout) ∧ (i = .periods → t₂.pset = t₁.pset) ∧
        (i = .frombits ∨ i = .minperiod ∨ i = .scan ∨ i = .encode ∨ i = .decode → t₂.res = t₁.res))

/-- Which host actions a step stops on (60_exceptions.md section 2; 20_memory.md sections 1 and 3): it faults exactly on a
read of poison and on a CMD write of a command that reads BUF while BUF is ⊥, and it is refused exactly on an access the
register space does not have and on a load that is too long. -/
def Obligations.StepStopsExactlyOnPoisonOrBadAccess : Prop :=
  ∀ (s : State) (act : HostAction) (rest : List HostAction), s.script = act :: rest →
    ((∃ f, step s = .fault f) ↔
      (act = .readBuf ∧ s.buf = none) ∨ (act = .read .word 0x1C#8 ∧ s.res = none) ∨
      (act = .read .word 0x20#8 ∧ s.buf = none) ∨
      (∃ w : Word, act = .write .word 0x00#8 w ∧ 2 ≤ w.toNat ∧ w.toNat ≤ 8 ∧ s.buf = none)) ∧
    ((∃ r, step s = .refused r) ↔
      (∃ size offset, act = .read size offset ∧
        (size ≠ .word ∨ offset.toNat % 4 ≠ 0 ∨ 0x28 ≤ offset.toNat)) ∨
      (∃ size offset v, act = .write size offset v ∧
        (size ≠ .word ∨ offset.toNat % 4 ≠ 0 ∨ 0x28 ≤ offset.toNat)) ∨
      (∃ bits, act = .loadBuf bits ∧ Config.params.nmax + 1 < bits.length))

/-- How a run ends (70_reset_and_hazards.md section 4): with every action performed, or, exactly when it fails, with a
fault or a refusal at one of its actions. -/
def Obligations.RunEndsOrStops : Prop :=
  ∀ s : State,
    (∀ t, RunSucceeds s t → t.script = []) ∧
    (RunFails s ↔ ∃ k, k ≤ s.script.length ∧
      ((∃ f, Host.Core.run Sys2Proof.core k s = .fault f) ∨ (∃ r, Host.Core.run Sys2Proof.core k s = .refused r)))

/-! ## The invariant -/

/-- The invariant of Safety.lean holds at reset (10_state.md section 5). -/
def Obligations.InvariantAtReset : Prop := Inv Config.params State.reset

/-- Every step keeps the invariant (10_state.md sections 2 and 3): STATUS stays legal, BUF stays within NMAX + 1 bits,
poison stays coherent, ZOUT and PSET stay in the form their commands write. -/
def Obligations.StepKeepsInvariant : Prop :=
  ∀ s t : State, Inv Config.params s → step s = .next t → Inv Config.params t

/-! ## The functions -/

/-- R12: `clog2(n)` is the least `k` with `2^k >= n`. -/
def Obligations.Clog2IsLeastExponent : Prop :=
  (∀ n, n ≤ 2 ^ clog2 n ∧ ∀ j, n ≤ 2 ^ j → clog2 n ≤ j) ∧
  (∀ n, 1 ≤ n → (clog2 n : ℤ) = ⌈Real.logb 2 n⌉) ∧
  clog2 1 = 0 ∧ clog2 2 = 1 ∧ clog2 4 = 2 ∧ clog2 5 = 3 ∧ clog2 16 = 4 ∧ clog2 20 = 5 ∧ clog2 0 = 0

/-- R102: the round-trip laws of toBits and fromBits. -/
def Obligations.BitVectorRoundTrip : Prop :=
  (∀ v w, v < 2 ^ w → fromBits (toBits v w) = v) ∧ (∀ v w, fromBits (toBits v w) = v % 2 ^ w) ∧
  (∀ b : Bits, toBits (fromBits b) b.length = b) ∧
  toBits 5 4 = [true, false, true, false] ∧ fromBits [true, false, true, false] = 5

/-- R126: the periods of a sequence, the trivial one, those of the empty sequence, and multiples. -/
def Obligations.PeriodSetLaws : Prop :=
  (∀ s : Bits, s ≠ [] → s.length ∈ computePeriods s) ∧ computePeriods [] = [] ∧
  (∀ (s : Bits) (q c : Nat), q ∈ computePeriods s → 1 ≤ c → c * q ≤ s.length → c * q ∈ computePeriods s)

/-- The linear-time algorithm of 41_period_analyzer.md section 1 gives the list of the definition, which is the one the
commands use: the spec leaves the algorithm free, and the choice is the model's (log 8). -/
def Obligations.LinearZRefinesComputeZ : Prop := ∀ s : Bits, linearZ s = computeZ s

/-- The first violation (42_window_scanner.md section 1) is the least violating offset, and there is none exactly when the constraint holds. -/
def Obligations.FirstViolationIsLeast : Prop :=
  ∀ (buf : Bits) (l p : Nat),
    (firstViolation buf l p = none ↔ Sat buf l p) ∧
    (∀ i, firstViolation buf l p = some i ↔
      (i < buf.length + 1 - l ∧ violates p (window buf i l) = true ∧ ∀ j, j < i → violates p (window buf j l) = false))

/-- R150: a non-empty window violates `p` exactly when its minimal period is below `p`; where `p` is at most its length, the
trivial period never counts. -/
def Obligations.ViolationIsShortPeriod : Prop :=
  ∀ (s : Bits) (p : Nat), s ≠ [] →
    (violates p s = true ↔ ∃ q, computeMinPeriod s = some q ∧ q < p) ∧
    (p ≤ s.length → (violates p s = true ↔ ∃ q, q < p ∧ q < s.length ∧ IsPeriod s q))

/-! ## The stream format, ENCODE and DECODE -/

/-- R171: what valid parameters imply. -/
def Obligations.ValidParamsConsequences : Prop :=
  (∀ nmax n l p, ValidParams nmax n l p →
    l - p = clog2 n + 1 ∧ p < l ∧ 4 ≤ n ∧ p ≤ n - clog2 n - 1 ∧ 2 ≤ (offsets (n + 1) l).length ∧
    (∀ i ∈ offsets (n + 1) l, i ≤ n - p - clog2 n ∧ i ≤ 2 ^ clog2 n - 1 - clog2 n ∧
      i < 2 ^ clog2 n ∧ fromBits (toBits i (clog2 n)) = i) ∧
    (p = 1 → ∀ (mc : Nat) (payload : Bits), payload.length = n →
      ∃ v, encodeCore mc n l p payload = .ok v ∧ v.buf = payload ++ [true] ∧ v.c = 0)) ∧
  (∀ nmax, 4 ≤ nmax → ValidParams nmax 4 4 1) ∧
  (∀ nmax, 20 ≤ nmax → ValidParams nmax 20 20 14 ∧ clog2 20 = 5)

/-- R174 and R175: a correction keeps the length, and which positions it leaves, writes and moves. -/
def Obligations.CorrectLengthAndFrame : Prop :=
  ∀ (nmax n l p i q : Nat) (buf : Bits), ValidParams nmax n l p → buf.length = n + 1 → i ≤ n + 1 - l → 1 ≤ q → q < p →
    (deleteBits buf (i + p) (l - p)).length = n - clog2 n ∧
    (correct n l p buf i q).length = n + 1 ∧
    (∀ x, x < i + q → bitAt (correct n l p buf i q) x = bitAt buf x) ∧
    (∀ x, i + q ≤ x → x < i + p → (bitAt (correct n l p buf i q) x = true ↔ x = i + q)) ∧
    slice (correct n l p buf i q) (n - clog2 n) (clog2 n + 1) = toBits i (clog2 n) ++ [false] ∧
    (∀ x, i + p ≤ x → x < n - clog2 n → bitAt (correct n l p buf i q) x = bitAt buf (x + (l - p)))

/-- R83 and R85: the record at the tail after a correction, and the marker. -/
def Obligations.RecordAndMarkerLayout : Prop :=
  ∀ (nmax n l p i q : Nat) (buf : Bits), ValidParams nmax n l p → buf.length = n + 1 → i ≤ n + 1 - l → 1 ≤ q → q < p →
    slice (correct n l p buf i q) (n - clog2 n) (clog2 n) = toBits i (clog2 n) ∧
    (∀ t, t < clog2 n → (bitAt (correct n l p buf i q) (n - clog2 n + t) = true ↔ i / 2 ^ t % 2 = 1)) ∧
    bitAt (correct n l p buf i q) n = false ∧
    fromBits (slice (correct n l p buf i q) (n - clog2 n) (clog2 n)) = i ∧
    slice (correct n l p buf i q) i q = slice buf i q ∧
    bitAt (correct n l p buf i q) (i + q) = true ∧
    (∀ x, i + q + 1 ≤ x → x ≤ i + p - 1 → bitAt (correct n l p buf i q) x = false) ∧
    markerScan (correct n l p buf i q) i (p - 1) = some q

/-- R80 and R82: every stream of the format has n + 1 bits, and its last bit says whether a correction is left to undo. -/
def Obligations.StreamLengthAndLastBit : Prop :=
  ∀ (nmax n l p : Nat) (payload : Bits), ValidParams nmax n l p → payload.length = n →
    (∀ S, EncodedStream n l p payload 0 S → S = payload ++ [true]) ∧
    (∀ j S, EncodedStream n l p payload j S →
      S.length = n + 1 ∧ (j = 0 → bitAt S n = true) ∧ (1 ≤ j → bitAt S n = false) ∧ (recordRemains S = true ↔ 1 ≤ j))

/-- R216, with the tests around it (44_decoder.md section 2): what one undo answers for every buffer, and the periodic
replay's closed form. -/
def Obligations.UndoOutcome : Prop :=
  ∀ (nmax n l p index : Nat) (buf : Bits), ValidParams nmax n l p → buf.length = n + 1 →
    index = fromBits (slice buf (n - clog2 n) (clog2 n)) →
    (n + 1 - l < index → undo n l p buf = .error .malformedStream) ∧
    (index ≤ n + 1 - l → (∀ x, index + 1 ≤ x → x ≤ index + p - 1 → bitAt buf x = false) →
      undo n l p buf = .error .malformedStream) ∧
    (∀ j, index ≤ n + 1 - l → index + 1 ≤ j → j ≤ index + p - 1 → bitAt buf j = true →
      (∀ x, j < x → x ≤ index + p - 1 → bitAt buf x = false) →
      ∃ out : Bits, undo n l p buf = .ok out ∧ out.length = n + 1 ∧
        (∀ x, x < index → bitAt out x = bitAt buf x) ∧
        (∀ t, t < l → bitAt out (index + t) = bitAt buf (index + t % (j - index))) ∧
        (∀ x, index + l ≤ x → x ≤ n → bitAt out x = bitAt buf (x - (l - p))))

/-- R217: undoing a correction gives back the buffer it was made on. -/
def Obligations.UndoReversesCorrect : Prop :=
  ∀ (nmax n l p i q : Nat) (buf : Bits), ValidParams nmax n l p → buf.length = n + 1 → i ≤ n + 1 - l → 1 ≤ q → q < p →
    IsPeriod (window buf i l) q → undo n l p (correct n l p buf i q) = .ok buf

/-- R183 and R184: ENCODE always ends, within MAX_CORR(n) + 1 passes of n + 2 - l windows and with at most MAX_CORR(n)
corrections, completing or with ENCODING_DIVERGED, never EMPTY_INPUT; every pass but the last applies a correction; more
passes allowed would change nothing. -/
def Obligations.EncodeAlwaysEnds : Prop :=
  ∀ (nmax n l p mc : Nat) (payload : Bits), ValidParams nmax n l p → payload.length = n →
    2 ≤ l ∧ (offsets (n + 1) l).length = n + 2 - l ∧
    (∀ pass c changed buf, 1 ≤ pass → EncodeReaches n l p payload (pass + 1) 0 c changed buf →
      ∃ c₀ buf₀, EncodeReaches n l p payload pass 0 c₀ false buf₀ ∧ c₀ < c) ∧
    ((∃ v, encodeCore mc n l p payload = .ok v ∧ v.c ≤ mc ∧ v.pass ≤ v.c + 1 ∧ v.pass ≤ mc + 1) ∨
      encodeCore mc n l p payload = .error .encodingDiverged) ∧
    (∀ more, encodeLoop mc n l p (mc + 1 + more) (encodeStart payload) = encodeCore mc n l p payload)

/-- R176, R177 and R178, with the guard of 43_encoder.md section 3: the loop's result is the point the trace of passes and
offsets reaches at the end of a pass without a correction, with at most MAX_CORR(n) corrections applied; and it is
ENCODING_DIVERGED exactly when the trace comes to a violating window with MAX_CORR(n) corrections already applied. -/
def Obligations.EncodeLoopFollowsTrace : Prop :=
  ∀ (nmax n l p mc : Nat) (payload : Bits), ValidParams nmax n l p → payload.length = n →
    (∀ v, encodeCore mc n l p payload = .ok v ↔
      v.changed = false ∧ v.c ≤ mc ∧ EncodeReaches n l p payload v.pass (n + 2 - l) v.c false v.buf) ∧
    (encodeCore mc n l p payload = .error .encodingDiverged ↔
      ∃ pass i changed buf q, EncodeReaches n l p payload pass i mc changed buf ∧ i ≤ n + 1 - l ∧
        computeMinPeriod (window buf i l) = some q ∧ q < p)

/-- R182: ENCODE applies no correction exactly when the terminated payload satisfies the constraint; the payload's own
windows are not enough. -/
def Obligations.NoCorrectionCase : Prop :=
  (∀ (nmax n l p mc : Nat) (payload : Bits), ValidParams nmax n l p → payload.length = n →
    ((∃ v, encodeCore mc n l p payload = .ok v ∧ v.c = 0) ↔ Sat (payload ++ [true]) l p) ∧
    (Sat (payload ++ [true]) l p →
      ∃ v, encodeCore mc n l p payload = .ok v ∧ v.c = 0 ∧ v.buf = payload ++ [true])) ∧
  (Sat [false, true, true, true, true, true] 6 2 ∧ ¬ Sat [false, true, true, true, true, true, true] 6 2)

/-- R181: what ENCODE guarantees of its output when it completes without error, for all legal parameters (that RES holds the
count exactly uses the premise MAX_CORR(n) < 2^31 of `Params.Legal`, log 4). -/
def Obligations.EncodeOutputGuarantees : Prop :=
  ∀ (P : Params) (s t : State), P.Legal → execAt P .encode s = .next t → statusErr t.status = 0#3 →
    ∃ (payload out : Bits) (c : Nat) (r : Word), s.buf = some payload ∧ t.buf = some out ∧ t.res = some r ∧
      r.toNat = c ∧ c ≤ P.maxCorr s.n.toNat ∧ out.length = s.n.toNat + 1 ∧
      Sat out s.l.toNat s.p.toNat ∧ EncodedStream s.n.toNat s.l.toNat s.p.toNat payload c out ∧
      ∃ u, execAt P .scan t = .next u ∧ u.status = 0#32

/-- DECODE inverts the format's whole history, for every bound that admits its records (44_decoder.md section 3). -/
def Obligations.DecodeInvertsEveryStream : Prop :=
  ∀ (nmax n l p mc j : Nat) (payload S : Bits), ValidParams nmax n l p → payload.length = n →
    EncodedStream n l p payload j S →
    (j ≤ mc → decodeCore mc n l p S = .ok (payload, j)) ∧ (mc < j → decodeCore mc n l p S = .error .malformedStream)

/-- R220: DECODE right after a successful ENCODE gives the payload back and counts as many records as ENCODE counted
corrections, with nothing else changed, for all parameters. -/
def Obligations.EncodeDecodeRoundTrip : Prop :=
  ∀ (P : Params) (s t : State), execAt P .encode s = .next t → statusErr t.status = 0#3 →
    execAt P .decode t = .next { t with buf := s.buf }

/-- The count bound of 44_decoder.md section 2: at most MAX_CORR(n) records are undone, the only error is
MALFORMED_STREAM, and the bound decides nothing but whether the records beyond it are an error. -/
def Obligations.DecodeCountBound : Prop :=
  ∀ (nmax n l p mc : Nat) (enc : Bits), ValidParams nmax n l p → enc.length = n + 1 →
    (∀ out r, decodeCore mc n l p enc = .ok (out, r) → r ≤ mc ∧ out.length = n) ∧
    (∀ e, decodeCore mc n l p enc = .error e → e = .malformedStream) ∧
    (∀ mc' out r, decodeCore mc' n l p enc = .ok (out, r) →
      (r ≤ mc → decodeCore mc n l p enc = .ok (out, r)) ∧
      (mc < r → decodeCore mc n l p enc = .error .malformedStream))

/-- R219, with the tests of 44_decoder.md section 2: the record loop undoes one record after another while the last bit is 0,
gives the first n bits once it is 1, and raises MALFORMED_STREAM exactly when an undo fails or a record is left after
MAX_CORR(n) of them. -/
def Obligations.DecodeLoopFollowsTrace : Prop :=
  ∀ (nmax n l p mc : Nat) (enc : Bits), ValidParams nmax n l p → enc.length = n + 1 →
    (∀ out r, decodeCore mc n l p enc = .ok (out, r) ↔
      r ≤ mc ∧ ∃ buf, DecodeReaches n l p enc r buf ∧ bitAt buf n = true ∧ out = slice buf 0 n) ∧
    (decodeCore mc n l p enc = .error .malformedStream ↔
      ∃ r buf, DecodeReaches n l p enc r buf ∧ bitAt buf n = false ∧ r ≤ mc ∧
        (r = mc ∨ undo n l p buf = .error .malformedStream)) ∧
    (bitAt enc n = true → decodeCore mc n l p enc = .ok (slice enc 0 n, 0))

/-- A stream ENCODE never makes, from any payload, can decode without error, and alike with one it makes (44_decoder.md
section 3). -/
def Obligations.DecodeIsNotInjective : Prop :=
  ∃ e₁ e₂ : Bits, e₁ ≠ e₂ ∧ e₁.length = 9 ∧ e₂.length = 9 ∧
    decodeCore 8 8 8 4 e₁ = .ok (List.replicate 8 false, 0) ∧
    decodeCore 8 8 8 4 e₂ = .ok (List.replicate 8 false, 1) ∧
    (∃ v, encodeCore 8 8 8 4 (List.replicate 8 false) = .ok v ∧ v.buf = e₂) ∧
    (∀ (payload : Bits) (v : EncodeVars), payload.length = 8 → encodeCore 8 8 8 4 payload = .ok v → v.buf ≠ e₁)

/-! ## The platform -/

/-- Instances share no state (20_memory.md section 6; 60_exceptions.md section 4): an action on one is that action on its own
state and leaves every other as it was. The platform's layout is the model's choice (log 13). -/
def Obligations.InstancesAreIsolated : Prop :=
  ∀ (pf : Platform) (i : Nat) (act : HostAction) (u : PceInstance), pf[i]? = some u →
    (∀ t, perform act u.core = .next t →
      ∃ pf', platformPerform pf i act = some (.next pf') ∧ pf'.length = pf.length ∧
        pf'[i]? = some { u with core := t } ∧ ∀ j, j ≠ i → pf'[j]? = pf[j]?) ∧
    (∀ f, perform act u.core = .fault f → platformPerform pf i act = some (.fault f)) ∧
    (∀ r, perform act u.core = .refused r → platformPerform pf i act = some (.refused r))

/-- The lanes of a register carry its value in either byte order (20_memory.md section 2; log 14). -/
def Obligations.ByteLanesCarryTheValue : Prop :=
  ∀ (o : ByteOrder) (v : Word), ∃ b0 b1 b2 b3, toLanes o v = [b0, b1, b2, b3] ∧ fromLanes o b0 b1 b2 b3 = v
end

