-- ==== Sys2Proof/Laws/State.lean ====
section
/-!
SUPPORT. One lemma per field of State and per named update, true by rfl: no later proof unfolds an update.
-/

namespace Sys2Proof.Machine

variable (s : State)

@[simp] theorem State.setStatus_status (v : Word) : (s.setStatus v).status = v := rfl
@[simp] theorem State.setStatus_n (v : Word) : (s.setStatus v).n = s.n := rfl
@[simp] theorem State.setStatus_p (v : Word) : (s.setStatus v).p = s.p := rfl
@[simp] theorem State.setStatus_l (v : Word) : (s.setStatus v).l = s.l := rfl
@[simp] theorem State.setStatus_a (v : Word) : (s.setStatus v).a = s.a := rfl
@[simp] theorem State.setStatus_w (v : Word) : (s.setStatus v).w = s.w := rfl
@[simp] theorem State.setStatus_res (v : Word) : (s.setStatus v).res = s.res := rfl
@[simp] theorem State.setStatus_buf (v : Word) : (s.setStatus v).buf = s.buf := rfl
@[simp] theorem State.setStatus_zout (v : Word) : (s.setStatus v).zout = s.zout := rfl
@[simp] theorem State.setStatus_pset (v : Word) : (s.setStatus v).pset = s.pset := rfl
@[simp] theorem State.setStatus_script (v : Word) : (s.setStatus v).script = s.script := rfl
@[simp] theorem State.setStatus_replies (v : Word) : (s.setStatus v).replies = s.replies := rfl

@[simp] theorem State.setN_status (v : Word) : (s.setN v).status = s.status := rfl
@[simp] theorem State.setN_n (v : Word) : (s.setN v).n = v := rfl
@[simp] theorem State.setN_p (v : Word) : (s.setN v).p = s.p := rfl
@[simp] theorem State.setN_l (v : Word) : (s.setN v).l = s.l := rfl
@[simp] theorem State.setN_a (v : Word) : (s.setN v).a = s.a := rfl
@[simp] theorem State.setN_w (v : Word) : (s.setN v).w = s.w := rfl
@[simp] theorem State.setN_res (v : Word) : (s.setN v).res = s.res := rfl
@[simp] theorem State.setN_buf (v : Word) : (s.setN v).buf = s.buf := rfl
@[simp] theorem State.setN_zout (v : Word) : (s.setN v).zout = s.zout := rfl
@[simp] theorem State.setN_pset (v : Word) : (s.setN v).pset = s.pset := rfl
@[simp] theorem State.setN_script (v : Word) : (s.setN v).script = s.script := rfl
@[simp] theorem State.setN_replies (v : Word) : (s.setN v).replies = s.replies := rfl

@[simp] theorem State.setP_status (v : Word) : (s.setP v).status = s.status := rfl
@[simp] theorem State.setP_n (v : Word) : (s.setP v).n = s.n := rfl
@[simp] theorem State.setP_p (v : Word) : (s.setP v).p = v := rfl
@[simp] theorem State.setP_l (v : Word) : (s.setP v).l = s.l := rfl
@[simp] theorem State.setP_a (v : Word) : (s.setP v).a = s.a := rfl
@[simp] theorem State.setP_w (v : Word) : (s.setP v).w = s.w := rfl
@[simp] theorem State.setP_res (v : Word) : (s.setP v).res = s.res := rfl
@[simp] theorem State.setP_buf (v : Word) : (s.setP v).buf = s.buf := rfl
@[simp] theorem State.setP_zout (v : Word) : (s.setP v).zout = s.zout := rfl
@[simp] theorem State.setP_pset (v : Word) : (s.setP v).pset = s.pset := rfl
@[simp] theorem State.setP_script (v : Word) : (s.setP v).script = s.script := rfl
@[simp] theorem State.setP_replies (v : Word) : (s.setP v).replies = s.replies := rfl

@[simp] theorem State.setL_status (v : Word) : (s.setL v).status = s.status := rfl
@[simp] theorem State.setL_n (v : Word) : (s.setL v).n = s.n := rfl
@[simp] theorem State.setL_p (v : Word) : (s.setL v).p = s.p := rfl
@[simp] theorem State.setL_l (v : Word) : (s.setL v).l = v := rfl
@[simp] theorem State.setL_a (v : Word) : (s.setL v).a = s.a := rfl
@[simp] theorem State.setL_w (v : Word) : (s.setL v).w = s.w := rfl
@[simp] theorem State.setL_res (v : Word) : (s.setL v).res = s.res := rfl
@[simp] theorem State.setL_buf (v : Word) : (s.setL v).buf = s.buf := rfl
@[simp] theorem State.setL_zout (v : Word) : (s.setL v).zout = s.zout := rfl
@[simp] theorem State.setL_pset (v : Word) : (s.setL v).pset = s.pset := rfl
@[simp] theorem State.setL_script (v : Word) : (s.setL v).script = s.script := rfl
@[simp] theorem State.setL_replies (v : Word) : (s.setL v).replies = s.replies := rfl

@[simp] theorem State.setA_status (v : Word) : (s.setA v).status = s.status := rfl
@[simp] theorem State.setA_n (v : Word) : (s.setA v).n = s.n := rfl
@[simp] theorem State.setA_p (v : Word) : (s.setA v).p = s.p := rfl
@[simp] theorem State.setA_l (v : Word) : (s.setA v).l = s.l := rfl
@[simp] theorem State.setA_a (v : Word) : (s.setA v).a = v := rfl
@[simp] theorem State.setA_w (v : Word) : (s.setA v).w = s.w := rfl
@[simp] theorem State.setA_res (v : Word) : (s.setA v).res = s.res := rfl
@[simp] theorem State.setA_buf (v : Word) : (s.setA v).buf = s.buf := rfl
@[simp] theorem State.setA_zout (v : Word) : (s.setA v).zout = s.zout := rfl
@[simp] theorem State.setA_pset (v : Word) : (s.setA v).pset = s.pset := rfl
@[simp] theorem State.setA_script (v : Word) : (s.setA v).script = s.script := rfl
@[simp] theorem State.setA_replies (v : Word) : (s.setA v).replies = s.replies := rfl

@[simp] theorem State.setW_status (v : Word) : (s.setW v).status = s.status := rfl
@[simp] theorem State.setW_n (v : Word) : (s.setW v).n = s.n := rfl
@[simp] theorem State.setW_p (v : Word) : (s.setW v).p = s.p := rfl
@[simp] theorem State.setW_l (v : Word) : (s.setW v).l = s.l := rfl
@[simp] theorem State.setW_a (v : Word) : (s.setW v).a = s.a := rfl
@[simp] theorem State.setW_w (v : Word) : (s.setW v).w = v := rfl
@[simp] theorem State.setW_res (v : Word) : (s.setW v).res = s.res := rfl
@[simp] theorem State.setW_buf (v : Word) : (s.setW v).buf = s.buf := rfl
@[simp] theorem State.setW_zout (v : Word) : (s.setW v).zout = s.zout := rfl
@[simp] theorem State.setW_pset (v : Word) : (s.setW v).pset = s.pset := rfl
@[simp] theorem State.setW_script (v : Word) : (s.setW v).script = s.script := rfl
@[simp] theorem State.setW_replies (v : Word) : (s.setW v).replies = s.replies := rfl

@[simp] theorem State.setRes_status (v : Word) : (s.setRes v).status = s.status := rfl
@[simp] theorem State.setRes_n (v : Word) : (s.setRes v).n = s.n := rfl
@[simp] theorem State.setRes_p (v : Word) : (s.setRes v).p = s.p := rfl
@[simp] theorem State.setRes_l (v : Word) : (s.setRes v).l = s.l := rfl
@[simp] theorem State.setRes_a (v : Word) : (s.setRes v).a = s.a := rfl
@[simp] theorem State.setRes_w (v : Word) : (s.setRes v).w = s.w := rfl
@[simp] theorem State.setRes_res (v : Word) : (s.setRes v).res = some v := rfl
@[simp] theorem State.setRes_buf (v : Word) : (s.setRes v).buf = s.buf := rfl
@[simp] theorem State.setRes_zout (v : Word) : (s.setRes v).zout = s.zout := rfl
@[simp] theorem State.setRes_pset (v : Word) : (s.setRes v).pset = s.pset := rfl
@[simp] theorem State.setRes_script (v : Word) : (s.setRes v).script = s.script := rfl
@[simp] theorem State.setRes_replies (v : Word) : (s.setRes v).replies = s.replies := rfl

@[simp] theorem State.setBuf_status (b : Bits) : (s.setBuf b).status = s.status := rfl
@[simp] theorem State.setBuf_n (b : Bits) : (s.setBuf b).n = s.n := rfl
@[simp] theorem State.setBuf_p (b : Bits) : (s.setBuf b).p = s.p := rfl
@[simp] theorem State.setBuf_l (b : Bits) : (s.setBuf b).l = s.l := rfl
@[simp] theorem State.setBuf_a (b : Bits) : (s.setBuf b).a = s.a := rfl
@[simp] theorem State.setBuf_w (b : Bits) : (s.setBuf b).w = s.w := rfl
@[simp] theorem State.setBuf_res (b : Bits) : (s.setBuf b).res = s.res := rfl
@[simp] theorem State.setBuf_buf (b : Bits) : (s.setBuf b).buf = some b := rfl
@[simp] theorem State.setBuf_zout (b : Bits) : (s.setBuf b).zout = s.zout := rfl
@[simp] theorem State.setBuf_pset (b : Bits) : (s.setBuf b).pset = s.pset := rfl
@[simp] theorem State.setBuf_script (b : Bits) : (s.setBuf b).script = s.script := rfl
@[simp] theorem State.setBuf_replies (b : Bits) : (s.setBuf b).replies = s.replies := rfl

@[simp] theorem State.setZout_status (z : List Nat) : (s.setZout z).status = s.status := rfl
@[simp] theorem State.setZout_n (z : List Nat) : (s.setZout z).n = s.n := rfl
@[simp] theorem State.setZout_p (z : List Nat) : (s.setZout z).p = s.p := rfl
@[simp] theorem State.setZout_l (z : List Nat) : (s.setZout z).l = s.l := rfl
@[simp] theorem State.setZout_a (z : List Nat) : (s.setZout z).a = s.a := rfl
@[simp] theorem State.setZout_w (z : List Nat) : (s.setZout z).w = s.w := rfl
@[simp] theorem State.setZout_res (z : List Nat) : (s.setZout z).res = s.res := rfl
@[simp] theorem State.setZout_buf (z : List Nat) : (s.setZout z).buf = s.buf := rfl
@[simp] theorem State.setZout_zout (z : List Nat) : (s.setZout z).zout = z := rfl
@[simp] theorem State.setZout_pset (z : List Nat) : (s.setZout z).pset = s.pset := rfl
@[simp] theorem State.setZout_script (z : List Nat) : (s.setZout z).script = s.script := rfl
@[simp] theorem State.setZout_replies (z : List Nat) : (s.setZout z).replies = s.replies := rfl

@[simp] theorem State.setPset_status (b : Bits) : (s.setPset b).status = s.status := rfl
@[simp] theorem State.setPset_n (b : Bits) : (s.setPset b).n = s.n := rfl
@[simp] theorem State.setPset_p (b : Bits) : (s.setPset b).p = s.p := rfl
@[simp] theorem State.setPset_l (b : Bits) : (s.setPset b).l = s.l := rfl
@[simp] theorem State.setPset_a (b : Bits) : (s.setPset b).a = s.a := rfl
@[simp] theorem State.setPset_w (b : Bits) : (s.setPset b).w = s.w := rfl
@[simp] theorem State.setPset_res (b : Bits) : (s.setPset b).res = s.res := rfl
@[simp] theorem State.setPset_buf (b : Bits) : (s.setPset b).buf = s.buf := rfl
@[simp] theorem State.setPset_zout (b : Bits) : (s.setPset b).zout = s.zout := rfl
@[simp] theorem State.setPset_pset (b : Bits) : (s.setPset b).pset = b := rfl
@[simp] theorem State.setPset_script (b : Bits) : (s.setPset b).script = s.script := rfl
@[simp] theorem State.setPset_replies (b : Bits) : (s.setPset b).replies = s.replies := rfl

@[simp] theorem State.poison_status : s.poison.status = s.status := rfl
@[simp] theorem State.poison_n : s.poison.n = s.n := rfl
@[simp] theorem State.poison_p : s.poison.p = s.p := rfl
@[simp] theorem State.poison_l : s.poison.l = s.l := rfl
@[simp] theorem State.poison_a : s.poison.a = s.a := rfl
@[simp] theorem State.poison_w : s.poison.w = s.w := rfl
@[simp] theorem State.poison_res : s.poison.res = none := rfl
@[simp] theorem State.poison_buf : s.poison.buf = none := rfl
@[simp] theorem State.poison_zout : s.poison.zout = s.zout := rfl
@[simp] theorem State.poison_pset : s.poison.pset = s.pset := rfl
@[simp] theorem State.poison_script : s.poison.script = s.script := rfl
@[simp] theorem State.poison_replies : s.poison.replies = s.replies := rfl

@[simp] theorem State.setScript_status (acts : List HostAction) : (s.setScript acts).status = s.status := rfl
@[simp] theorem State.setScript_n (acts : List HostAction) : (s.setScript acts).n = s.n := rfl
@[simp] theorem State.setScript_p (acts : List HostAction) : (s.setScript acts).p = s.p := rfl
@[simp] theorem State.setScript_l (acts : List HostAction) : (s.setScript acts).l = s.l := rfl
@[simp] theorem State.setScript_a (acts : List HostAction) : (s.setScript acts).a = s.a := rfl
@[simp] theorem State.setScript_w (acts : List HostAction) : (s.setScript acts).w = s.w := rfl
@[simp] theorem State.setScript_res (acts : List HostAction) : (s.setScript acts).res = s.res := rfl
@[simp] theorem State.setScript_buf (acts : List HostAction) : (s.setScript acts).buf = s.buf := rfl
@[simp] theorem State.setScript_zout (acts : List HostAction) : (s.setScript acts).zout = s.zout := rfl
@[simp] theorem State.setScript_pset (acts : List HostAction) : (s.setScript acts).pset = s.pset := rfl
@[simp] theorem State.setScript_script (acts : List HostAction) : (s.setScript acts).script = acts := rfl
@[simp] theorem State.setScript_replies (acts : List HostAction) : (s.setScript acts).replies = s.replies := rfl

@[simp] theorem State.reply_status (r : Reply) : (s.reply r).status = s.status := rfl
@[simp] theorem State.reply_n (r : Reply) : (s.reply r).n = s.n := rfl
@[simp] theorem State.reply_p (r : Reply) : (s.reply r).p = s.p := rfl
@[simp] theorem State.reply_l (r : Reply) : (s.reply r).l = s.l := rfl
@[simp] theorem State.reply_a (r : Reply) : (s.reply r).a = s.a := rfl
@[simp] theorem State.reply_w (r : Reply) : (s.reply r).w = s.w := rfl
@[simp] theorem State.reply_res (r : Reply) : (s.reply r).res = s.res := rfl
@[simp] theorem State.reply_buf (r : Reply) : (s.reply r).buf = s.buf := rfl
@[simp] theorem State.reply_zout (r : Reply) : (s.reply r).zout = s.zout := rfl
@[simp] theorem State.reply_pset (r : Reply) : (s.reply r).pset = s.pset := rfl
@[simp] theorem State.reply_script (r : Reply) : (s.reply r).script = s.script := rfl
@[simp] theorem State.reply_replies (r : Reply) : (s.reply r).replies = s.replies ++ [r] := rfl

@[simp] theorem resetBlock_status : (resetBlock s).status = 0#32 := rfl
@[simp] theorem resetBlock_n : (resetBlock s).n = 0#32 := rfl
@[simp] theorem resetBlock_p : (resetBlock s).p = 0#32 := rfl
@[simp] theorem resetBlock_l : (resetBlock s).l = 0#32 := rfl
@[simp] theorem resetBlock_a : (resetBlock s).a = 0#32 := rfl
@[simp] theorem resetBlock_w : (resetBlock s).w = 0#32 := rfl
@[simp] theorem resetBlock_res : (resetBlock s).res = some 0#32 := rfl
@[simp] theorem resetBlock_buf : (resetBlock s).buf = some [] := rfl
@[simp] theorem resetBlock_zout : (resetBlock s).zout = [] := rfl
@[simp] theorem resetBlock_pset : (resetBlock s).pset = [] := rfl
@[simp] theorem resetBlock_script : (resetBlock s).script = s.script := rfl
@[simp] theorem resetBlock_replies : (resetBlock s).replies = s.replies := rfl

end Sys2Proof.Machine
end

