-- ==== Sys2Proof/Laws/Ops.lean ====
section
/-!
SUPPORT. What each shared operation can do, once each: later proofs cite these and unfold none of them.
-/

namespace Sys2Proof.Machine

/-! ## STATUS -/

@[simp] theorem statusErr_statusWord (vf : Bool) (e : ErrCode) : statusErr (statusWord vf e) = errBits e := by
  cases vf <;> cases e <;> decide

@[simp] theorem statusVf_statusWord (vf : Bool) (e : ErrCode) : statusVf (statusWord vf e) = vf := by
  cases vf <;> cases e <;> decide

@[simp] theorem statusRsvd_statusWord (vf : Bool) (e : ErrCode) : statusRsvd (statusWord vf e) = 0#28 := by
  cases vf <;> cases e <;> decide

theorem statusWord_values :
    statusWord false .noError = 0#32 ∧ statusWord true .noError = 8#32 ∧ statusWord false .emptyInput = 1#32 ∧
    statusWord false .encodingDiverged = 2#32 ∧ statusWord false .malformedStream = 3#32 ∧
    statusWord false .precondition = 4#32 ∧ statusWord false .illegalCommand = 5#32 := by decide

theorem errBits_eq_zero_iff (e : ErrCode) : errBits e = 0#3 ↔ e = .noError := by
  cases e <;> decide

/-! ## Completing and raising -/

@[simp] theorem complete_next_iff (vf : Bool) (s t : State) :
    complete vf s = .next t ↔ t = s.setStatus (statusWord vf .noError) := by
  simp [complete, eq_comm]

@[simp] theorem raiseCheck_next_iff (e : ErrCode) (s t : State) :
    raiseCheck e s = .next t ↔ t = s.setStatus (statusWord false e) := by
  simp [raiseCheck, eq_comm]

@[simp] theorem raiseExec_next_iff (e : ErrCode) (s t : State) :
    raiseExec e s = .next t ↔ t = s.poison.setStatus (statusWord false e) := by
  simp [raiseExec, eq_comm]

/-- A command that reads BUF answers a next state exactly when BUF is not ⊥ and its own work does. -/
theorem withBuf_next_iff (i : Instr) (s t : State) (run : Bits → Result) :
    withBuf i s run = .next t ↔ ∃ b, s.buf = some b ∧ run b = .next t := by
  unfold withBuf
  cases h : s.buf <;> simp

theorem withBuf_of_some {i : Instr} {s : State} {b : Bits} (h : s.buf = some b) (run : Bits → Result) :
    withBuf i s run = run b := by simp [withBuf, h]

theorem withBuf_of_none {i : Instr} {s : State} (h : s.buf = none) (run : Bits → Result) :
    withBuf i s run = .fault (.commandOnPoisonedBuf i) := by simp [withBuf, h]

/-- A command on a window answers a next state exactly when BUF is not ⊥ and either the window fits and its own work
does, or the window does not fit and PRECONDITION is raised. -/
theorem withWindow_next_iff (i : Instr) (s t : State) (run : Bits → Result) :
    withWindow i s run = .next t ↔
      ∃ b, s.buf = some b ∧
        ((WindowFits s.a s.w b ∧ run (win s.a s.w b) = .next t) ∨
          (¬ WindowFits s.a s.w b ∧ t = s.setStatus (statusWord false .precondition))) := by
  unfold withWindow
  rw [withBuf_next_iff]
  refine exists_congr fun b => and_congr_right fun _ => ?_
  split <;> rename_i hfit <;> simp [hfit]

theorem withWindow_of_fits {i : Instr} {s : State} {b : Bits} (h : s.buf = some b) (hfit : WindowFits s.a s.w b)
    (run : Bits → Result) : withWindow i s run = run (win s.a s.w b) := by
  rw [withWindow, withBuf_of_some h, if_pos hfit]

theorem withWindow_of_not_fits {i : Instr} {s : State} {b : Bits} (h : s.buf = some b) (hfit : ¬ WindowFits s.a s.w b)
    (run : Bits → Result) : withWindow i s run = raiseCheck .precondition s := by
  rw [withWindow, withBuf_of_some h, if_neg hfit]

theorem withWindow_of_none {i : Instr} {s : State} (h : s.buf = none) (run : Bits → Result) :
    withWindow i s run = .fault (.commandOnPoisonedBuf i) := withBuf_of_none h _

/-! ## Registers -/

theorem bufLen_of_some {s : State} {b : Bits} (h : s.buf = some b) : s.bufLen = some (zext b.length) := by
  simp [State.bufLen, h]

theorem bufLen_eq_none_iff (s : State) : s.bufLen = none ↔ s.buf = none := by
  simp [State.bufLen]

/-- A register write changes at most the operand registers (R42, R43). -/
theorem writeReg_frame (r : Reg) (v : Word) (s : State) :
    ∃ n p l a w, writeReg r v s = { s with n := n, p := p, l := l, a := a, w := w } := by
  cases r <;> exact ⟨_, _, _, _, _, rfl⟩

theorem toNat_zext (v : Nat) : (zext v).toNat = v % 2 ^ 32 := by simp [zext]

theorem toNat_zext_of_lt {v : Nat} (h : v < 2 ^ 32) : (zext v).toNat = v := by
  rw [toNat_zext, Nat.mod_eq_of_lt h]

@[simp] theorem zext_toNat (w : Word) : zext w.toNat = w := by simp [zext]

end Sys2Proof.Machine
end

