-- ==== Sys2Proof/Laws/HostPort.lean ====
section
/-!
SUPPORT. What a host action and a step can do.
-/

namespace Sys2Proof.Machine

@[simp] theorem regAt_regOffset (r : Reg) : regAt (regOffset r) = some r := by cases r <;> decide

/-- An access reaches a register exactly when it is a whole word at a multiple of 4 where that register stands. -/
theorem selectReg_ok_iff (size : AccessSize) (offset : BitVec 8) (r : Reg) :
    selectReg size offset = .ok r ↔ size = .word ∧ offset.toNat % 4 = 0 ∧ regAt offset = some r := by
  unfold selectReg
  by_cases h1 : size = .word
  · by_cases h2 : offset.toNat % 4 = 0
    · cases h3 : regAt offset <;> simp [h1, h2]
    · simp [h1, h2]
  · simp [h1]

@[simp] theorem selectReg_regOffset (r : Reg) : selectReg .word (regOffset r) = .ok r := by
  rw [selectReg_ok_iff]; cases r <;> decide

/-- A register read that answers changes nothing but what the host has received. -/
theorem readWord_next {size : AccessSize} {offset : BitVec 8} {s t : State} (h : readWord size offset s = .next t) :
    ∃ r v, selectReg size offset = .ok r ∧ readReg r s = .ok v ∧ t = s.reply (.word v) := by
  unfold readWord at h
  split at h
  · cases h
  · rename_i r hr
    split at h
    · cases h
    · rename_i v hv; cases h; exact ⟨r, v, hr, hv, rfl⟩

/-- A register write that answers either issued a command at CMD or wrote a register. -/
theorem writeWord_next {run : Instr → State → Result} {size : AccessSize} {offset : BitVec 8} {v : Word} {s t : State}
    (h : writeWord run size offset v s = .next t) :
    ∃ r, selectReg size offset = .ok r ∧
      ((r = .cmd ∧ issueCommand run v s = .next t) ∨ (r ≠ .cmd ∧ t = writeReg r v s)) := by
  unfold writeWord at h
  split at h
  · cases h
  · rename_i r hr
    refine ⟨r, hr, ?_⟩
    split at h
    · rename_i hc; exact .inl ⟨hc, h⟩
    · rename_i hc; cases h; exact .inr ⟨hc, rfl⟩

/-- A CMD write that answers ran a command, or raised ILLEGAL_COMMAND. -/
theorem issueCommand_next {run : Instr → State → Result} {w : Word} {s t : State} (h : issueCommand run w s = .next t) :
    (∃ e, decode w = .error e ∧ t = s.setStatus (statusWord false .illegalCommand)) ∨
      ∃ i, decode w = .ok i ∧ run i s = .next t := by
  unfold issueCommand at h
  split at h
  · rename_i e he
    exact .inl ⟨e, he, by simpa [illegalCommand] using h⟩
  · rename_i i hi; exact .inr ⟨i, hi, h⟩

theorem loadBufAt_next_iff (P : Params) (bits : Bits) (s t : State) :
    loadBufAt P bits s = .next t ↔ bits.length ≤ P.nmax + 1 ∧ t = s.setBuf bits := by
  unfold loadBufAt
  split <;> rename_i h <;> simp [h, eq_comm]

theorem readBuf_next_iff (s t : State) : readBuf s = .next t ↔ ∃ b, s.buf = some b ∧ t = s.reply (.bits b) := by
  unfold readBuf
  cases s.buf <;> simp [eq_comm]

/-- What a step can do: hold the idle block's state, or perform the next action with it taken from the script. -/
theorem stepScript_next {act : HostAction → State → Result} {s t : State} (h : stepScript act s = .next t) :
    (s.script = [] ∧ t = s) ∨ ∃ a rest, s.script = a :: rest ∧ act a (s.setScript rest) = .next t := by
  unfold stepScript at h
  split at h
  · rename_i hs; cases h; exact .inl ⟨hs, rfl⟩
  · rename_i a rest hs; exact .inr ⟨a, rest, hs, h⟩

theorem step_of_cons {s : State} {a : HostAction} {rest : List HostAction} (h : s.script = a :: rest) :
    step s = perform a (s.setScript rest) := by simp [step, stepScript, h]

end Sys2Proof.Machine
end

