-- ==== Sys2Proof/Laws/Meanings.lean ====
section
/-!
SUPPORT. One inversion lemma per meaning: when it answers a next state, which state that is. And the induction rules of
ENCODE's loops.
-/

namespace Sys2Proof.Machine

/-- What TOBITS can do. -/
theorem tobitsAt_next_iff (P : Params) (s t : State) :
    tobitsAt P s = .next t ↔
      (s.w.toNat ≤ P.nmax + 1 ∧ t = (s.setBuf (toBits s.a.toNat s.w.toNat)).setStatus (statusWord false .noError)) ∨
      (¬ s.w.toNat ≤ P.nmax + 1 ∧ t = s.setStatus (statusWord false .precondition)) := by
  unfold tobitsAt
  split <;> rename_i h <;> simp [h]

/-- What FROMBITS can do. -/
theorem execFrombits_next_iff (s t : State) :
    execFrombits s = .next t ↔
      ∃ b, s.buf = some b ∧
        ((WindowFits s.a s.w b ∧ s.w.toNat ≤ 32 ∧
            t = (s.setRes (zext (fromBits (win s.a s.w b)))).setStatus (statusWord false .noError)) ∨
          ((¬ WindowFits s.a s.w b ∨ ¬ s.w.toNat ≤ 32) ∧ t = s.setStatus (statusWord false .precondition))) := by
  rw [execFrombits, withWindow_next_iff]
  refine exists_congr fun b => and_congr_right fun _ => ?_
  by_cases h1 : WindowFits s.a s.w b <;> by_cases h2 : s.w.toNat ≤ 32 <;> simp [h1, h2]

/-- What ZFUNC can do. -/
theorem execZfunc_next_iff (s t : State) :
    execZfunc s = .next t ↔
      ∃ b, s.buf = some b ∧
        ((WindowFits s.a s.w b ∧ t = (s.setZout (computeZ (win s.a s.w b))).setStatus (statusWord false .noError)) ∨
          (¬ WindowFits s.a s.w b ∧ t = s.setStatus (statusWord false .precondition))) := by
  simp [execZfunc, withWindow_next_iff]

/-- What PERIODS can do. -/
theorem execPeriods_next_iff (s t : State) :
    execPeriods s = .next t ↔
      ∃ b, s.buf = some b ∧
        ((WindowFits s.a s.w b ∧ t = (s.setPset (periodSet (win s.a s.w b))).setStatus (statusWord false .noError)) ∨
          (¬ WindowFits s.a s.w b ∧ t = s.setStatus (statusWord false .precondition))) := by
  simp [execPeriods, withWindow_next_iff]

/-- What MINPERIOD can do. -/
theorem execMinperiod_next_iff (s t : State) :
    execMinperiod s = .next t ↔
      ∃ b, s.buf = some b ∧
        ((WindowFits s.a s.w b ∧
            ((computeMinPeriod (win s.a s.w b) = none ∧ t = s.setStatus (statusWord false .emptyInput)) ∨
              ∃ q, computeMinPeriod (win s.a s.w b) = some q ∧
                t = (s.setRes (zext q)).setStatus (statusWord false .noError))) ∨
          (¬ WindowFits s.a s.w b ∧ t = s.setStatus (statusWord false .precondition))) := by
  rw [execMinperiod, withWindow_next_iff]
  refine exists_congr fun b => and_congr_right fun _ => ?_
  cases h : computeMinPeriod (win s.a s.w b) <;> simp

/-- What SCAN can do. -/
theorem execScan_next_iff (s t : State) :
    execScan s = .next t ↔
      ∃ b, s.buf = some b ∧
        (((1 ≤ s.p.toNat ∧ s.p.toNat ≤ s.l.toNat ∧ s.l.toNat ≤ b.length) ∧
            ((firstViolation b s.l.toNat s.p.toNat = none ∧
                t = (s.setRes (zext 0)).setStatus (statusWord false .noError)) ∨
              ∃ f, firstViolation b s.l.toNat s.p.toNat = some f ∧
                t = (s.setRes (zext f)).setStatus (statusWord true .noError))) ∨
          (¬ (1 ≤ s.p.toNat ∧ s.p.toNat ≤ s.l.toNat ∧ s.l.toNat ≤ b.length) ∧
            t = s.setStatus (statusWord false .precondition))) := by
  rw [execScan, withBuf_next_iff]
  refine exists_congr fun b => and_congr_right fun _ => ?_
  split <;> rename_i h
  · cases hf : firstViolation b s.l.toNat s.p.toNat <;> simp [h]
  · simp [h]

/-- What ENCODE can do. -/
theorem encodeAt_next_iff (P : Params) (s t : State) :
    encodeAt P s = .next t ↔
      ∃ b, s.buf = some b ∧
        ((ValidParams P.nmax s.n.toNat s.l.toNat s.p.toNat ∧ b.length = s.n.toNat ∧
            ((∃ e, encodeCore (P.maxCorr s.n.toNat) s.n.toNat s.l.toNat s.p.toNat b = .error e ∧
                t = s.poison.setStatus (statusWord false e)) ∨
              ∃ v, encodeCore (P.maxCorr s.n.toNat) s.n.toNat s.l.toNat s.p.toNat b = .ok v ∧
                t = ((s.setBuf v.buf).setRes (zext v.c)).setStatus (statusWord false .noError))) ∨
          (¬ (ValidParams P.nmax s.n.toNat s.l.toNat s.p.toNat ∧ b.length = s.n.toNat) ∧
            t = s.setStatus (statusWord false .precondition))) := by
  rw [encodeAt, withBuf_next_iff]
  refine exists_congr fun b => and_congr_right fun _ => ?_
  by_cases h1 : ValidParams P.nmax s.n.toNat s.l.toNat s.p.toNat
  · by_cases h2 : b.length = s.n.toNat
    · rw [if_pos h1, if_pos h2]
      generalize ValidParams P.nmax s.n.toNat s.l.toNat s.p.toNat = V at h1
      cases encodeCore (P.maxCorr s.n.toNat) s.n.toNat s.l.toNat s.p.toNat b <;> simp [h1, h2]
    · rw [if_pos h1, if_neg h2]; simp [h2]
  · rw [if_neg h1]
    generalize ValidParams P.nmax s.n.toNat s.l.toNat s.p.toNat = V at h1
    simp [h1]

/-- What DECODE can do. -/
theorem decodeAt_next_iff (P : Params) (s t : State) :
    decodeAt P s = .next t ↔
      ∃ b, s.buf = some b ∧
        ((ValidParams P.nmax s.n.toNat s.l.toNat s.p.toNat ∧ b.length = s.n.toNat + 1 ∧
            ((∃ e, decodeCore (P.maxCorr s.n.toNat) s.n.toNat s.l.toNat s.p.toNat b = .error e ∧
                t = s.poison.setStatus (statusWord false e)) ∨
              ∃ out r, decodeCore (P.maxCorr s.n.toNat) s.n.toNat s.l.toNat s.p.toNat b = .ok (out, r) ∧
                t = ((s.setBuf out).setRes (zext r)).setStatus (statusWord false .noError))) ∨
          (ValidParams P.nmax s.n.toNat s.l.toNat s.p.toNat ∧ b.length ≠ s.n.toNat + 1 ∧
            t = s.setStatus (statusWord false .malformedStream)) ∨
          (¬ ValidParams P.nmax s.n.toNat s.l.toNat s.p.toNat ∧ t = s.setStatus (statusWord false .precondition))) := by
  rw [decodeAt, withBuf_next_iff]
  refine exists_congr fun b => and_congr_right fun _ => ?_
  by_cases h1 : ValidParams P.nmax s.n.toNat s.l.toNat s.p.toNat
  · by_cases h2 : b.length = s.n.toNat + 1
    · rw [if_pos h1, if_pos h2]
      generalize ValidParams P.nmax s.n.toNat s.l.toNat s.p.toNat = V at h1
      rcases decodeCore (P.maxCorr s.n.toNat) s.n.toNat s.l.toNat s.p.toNat b with e | ⟨out, r⟩
      · simp [h1, h2]
      · simp [h1, h2, Prod.ext_iff]
    · rw [if_pos h1, if_neg h2]
      generalize ValidParams P.nmax s.n.toNat s.l.toNat s.p.toNat = V at h1
      simp [h1, h2]
  · rw [if_neg h1]
    generalize ValidParams P.nmax s.n.toNat s.l.toNat s.p.toNat = V at h1
    simp [h1]

/-! ## ENCODE's loops -/

/-- The offset loop's induction rule: what every round that does not fail keeps, the whole loop keeps. -/
theorem encodeOffsets_induction {mc n l p : Nat} (I : EncodeVars → Prop) {is : List Nat}
    (hstep : ∀ i ∈ is, ∀ v v', I v → encodeOffset mc n l p i v = .ok v' → I v') :
    ∀ {v v'}, I v → encodeOffsets mc n l p is v = .ok v' → I v' := by
  induction is with
  | nil => intro v v' hv h; cases h; exact hv
  | cons i rest ih =>
    intro v v' hv h
    unfold encodeOffsets at h
    split at h
    · cases h
    · rename_i w hw
      exact ih (fun j hj => hstep j (List.mem_cons_of_mem i hj)) (hstep i List.mem_cons_self v w hv hw) h

/-- The pass loop's induction rule: what every pass that does not fail keeps holds at the end, after a last pass that
applied no correction. -/
theorem encodeLoop_induction {mc n l p : Nat} (I : EncodeVars → Prop)
    (hpass : ∀ v v', I v → encodePass mc n l p v = .ok v' → I v') (fuel : Nat) :
    ∀ {v v'}, I v → encodeLoop mc n l p fuel v = .ok v' →
      I v' ∧ ∃ u, I u ∧ encodePass mc n l p u = .ok v' ∧ v'.changed = false := by
  induction fuel with
  | zero => intro v v' _ h; cases h
  | succ f ih =>
    intro v v' hv h
    unfold encodeLoop at h
    split at h
    · cases h
    · rename_i w hw
      split at h
      · exact ih (hpass v w hv hw) h
      · rename_i hc
        cases h
        exact ⟨hpass v _ hv hw, v, hv, hw, by simpa using hc⟩

/-- What one round of the offset loop can do. -/
theorem encodeOffset_ok_iff {mc n l p i : Nat} {v v' : EncodeVars} :
    encodeOffset mc n l p i v = .ok v' ↔
      ∃ q, computeMinPeriod (window v.buf i l) = some q ∧
        ((q < p ∧ v.c ≠ mc ∧ v' = { v with buf := correct n l p v.buf i q, c := v.c + 1, changed := true }) ∨
          (¬ q < p ∧ v' = v)) := by
  unfold encodeOffset
  cases h : computeMinPeriod (window v.buf i l) with
  | none => simp
  | some q =>
    by_cases h1 : q < p
    · by_cases h2 : v.c = mc <;> simp [h1, h2, eq_comm]
    · simp only [h1, if_false, Except.ok.injEq, Option.some.injEq, exists_eq_left', false_and, not_false_eq_true,
        true_and, false_or, eq_comm]

end Sys2Proof.Machine
end

