-- ==== Sys2Proof/Laws/Params.lean ====
section
/-!
SUPPORT. `exec`, `perform` and `step` are the machine of Machine/AnyParams.lean at this implementation's parameters, which
are legal.
-/

namespace Sys2Proof.Machine

theorem params_legal : Config.params.Legal where
  four_le_nmax := Nat.le_add_right 4 _
  nmax_le := by
    have := Config.nmaxAboveFour.isLt
    simp only [Config.params]
    omega
  maxCorr_lt n _ := (Config.maxCorr n).isLt

/-- The default `MAX_CORR(n) = n` (R7, D5) is legal with every NMAX the spec admits. -/
theorem default_maxCorr_legal {nmax : Nat} (h4 : 4 ≤ nmax) (h : nmax ≤ 2 ^ 31 - 2) : Params.Legal ⟨nmax, id⟩ where
  four_le_nmax := h4
  nmax_le := h
  maxCorr_lt n hn := by
    change n ≤ nmax at hn
    show n < 2 ^ 31
    omega

theorem exec_eq_execAt : exec = execAt Config.params := by
  funext i s; cases i <;> rfl

theorem perform_eq_performAt : perform = performAt Config.params := by
  funext a s; rw [perform, performAt, exec_eq_execAt]

theorem step_eq_stepAt : step = stepAt Config.params := by
  funext s; rw [step, stepAt, perform_eq_performAt]

end Sys2Proof.Machine
end

