-- ==== Sys2Proof/Laws/PerInstr.lean ====
section
/-!
SUPPORT. Statements made per instruction: each command's word has its reserved bits 0 and its opcode in 1 to 8 (spec
30_encoding.md R70, R71).
-/

namespace Sys2Proof.Laws.OpcodeField

/-- The instruction is well formed, and its word's RSVD field is 0 and its OP field in 1 to 8. -/
def Statement (i : Instr) : Prop :=
  i.wellFormed = true ∧ rsvdField (encode i) = 0#28 ∧ 1 ≤ (opField (encode i)).toNat ∧ (opField (encode i)).toNat ≤ 8

theorem tobits : Statement .tobits := by unfold Statement; decide
theorem frombits : Statement .frombits := by unfold Statement; decide
theorem zfunc : Statement .zfunc := by unfold Statement; decide
theorem periods : Statement .periods := by unfold Statement; decide
theorem minperiod : Statement .minperiod := by unfold Statement; decide
theorem scan : Statement .scan := by unfold Statement; decide
theorem encode : Statement .encode := by unfold Statement; decide
theorem decode : Statement .decode := by unfold Statement; decide

end Sys2Proof.Laws.OpcodeField
end

