-- ==== Sys2Proof/Laws/Sequences.lean ====
section
/-!
SUPPORT. The small lemmas of the sequence primitives, and the induction rule of the counting loop.
-/

namespace Sys2Proof.Machine

@[simp] theorem slice_length (s : Bits) (a len : Nat) : (slice s a len).length = min len (s.length - a) := by
  simp [slice]

theorem slice_length_of_fits {s : Bits} {a len : Nat} (h : a + len ≤ s.length) : (slice s a len).length = len := by
  rw [slice_length]; omega

theorem bitAt_slice {s : Bits} {a len i : Nat} (h : i < len) : bitAt (slice s a len) i = bitAt s (a + i) := by
  simp [bitAt, slice, List.getD_eq_getElem?_getD, h]

theorem bitAt_of_length_le {s : Bits} {i : Nat} (h : s.length ≤ i) : bitAt s i = false := by
  simp [bitAt, List.getD_eq_getElem?_getD, List.getElem?_eq_none h]

theorem bits_ext {s t : Bits} (hlen : s.length = t.length) (h : ∀ i, i < s.length → bitAt s i = bitAt t i) : s = t := by
  refine List.ext_getElem hlen fun i hi hi' => ?_
  have := h i hi
  simpa [bitAt, List.getD_eq_getElem?_getD, List.getElem?_eq_getElem, hi, hi'] using this

theorem bitAt_append_left {s t : Bits} {i : Nat} (h : i < s.length) : bitAt (s ++ t) i = bitAt s i := by
  simp [bitAt, List.getD_eq_getElem?_getD, List.getElem?_append_left h]

theorem bitAt_append_right {s t : Bits} {i : Nat} (h : s.length ≤ i) : bitAt (s ++ t) i = bitAt t (i - s.length) := by
  simp [bitAt, List.getD_eq_getElem?_getD, List.getElem?_append_right h]

theorem bitAt_set_self {s : Bits} {i : Nat} (b : Bool) (h : i < s.length) : bitAt (s.set i b) i = b := by
  simp [bitAt, List.getD_eq_getElem?_getD, h]

theorem bitAt_set_ne {s : Bits} {i j : Nat} (b : Bool) (h : i ≠ j) : bitAt (s.set i b) j = bitAt s j := by
  simp [bitAt, List.getD_eq_getElem?_getD, List.getElem?_set_ne h]

theorem deleteBits_length {s : Bits} {a c : Nat} (h : a + c ≤ s.length) : (deleteBits s a c).length = s.length - c := by
  simp [deleteBits]; omega

theorem bitAt_deleteBits_left {s : Bits} {a c i : Nat} (hi : i < a) (h : a ≤ s.length) :
    bitAt (deleteBits s a c) i = bitAt s i := by
  rw [deleteBits, bitAt_append_left (by simp; omega)]
  simp [bitAt, List.getD_eq_getElem?_getD, hi]

theorem bitAt_deleteBits_right {s : Bits} {a c i : Nat} (hi : a ≤ i) (h : a ≤ s.length) :
    bitAt (deleteBits s a c) i = bitAt s (i + c) := by
  have hl : (s.take a).length = a := by simp [h]
  rw [deleteBits, bitAt_append_right (by omega), hl]
  simp only [bitAt, List.getD_eq_getElem?_getD, List.getElem?_drop]
  congr 2; omega

theorem insertBits_length {s : Bits} {a : Nat} (t : Bits) (h : a ≤ s.length) :
    (insertBits s a t).length = s.length + t.length := by
  simp [insertBits]; omega

@[simp] theorem takeLast_length (s : Bits) (c : Nat) : (takeLast s c).length = min c s.length := by
  simp [takeLast]; omega

@[simp] theorem dropLast_length (s : Bits) (c : Nat) : (dropLast s c).length = s.length - c := by
  simp [dropLast]

@[simp] theorem forFrom_zero {σ : Type} (body : Nat → σ → σ) (a : Nat) (acc : σ) : forFrom body a 0 acc = acc := rfl

@[simp] theorem forFrom_succ {σ : Type} (body : Nat → σ → σ) (a count : Nat) (acc : σ) :
    forFrom body a (count + 1) acc = forFrom body (a + 1) count (body a acc) := rfl

/-- The induction rule of the counting loop: what holds at its start and is carried over each round holds at its end. -/
theorem forFrom_induction {σ : Type} (body : Nat → σ → σ) (I : Nat → σ → Prop) (count : Nat) :
    ∀ (a : Nat) (acc : σ), I a acc → (∀ x acc, a ≤ x → x < a + count → I x acc → I (x + 1) (body x acc)) →
      I (a + count) (forFrom body a count acc) := by
  induction count with
  | zero => intro a acc h0 _; simpa using h0
  | succ c ih =>
    intro a acc h0 hs
    have h1 := hs a acc (le_refl a) (by omega) h0
    have h2 := ih (a + 1) (body a acc) h1 fun x acc hx hx' hI => hs x acc (by omega) (by omega) hI
    rw [forFrom_succ]
    have he : a + (c + 1) = a + 1 + c := by omega
    rw [he]; exact h2

end Sys2Proof.Machine
end

