-- ==== Sys2Proof/Tests/Slice0.lean ====
section
/-!
SUPPORT. The model's own tests, all expected values from spec/95_test_vectors.md, and for every obligation with hypotheses a
witness that meets them.
-/

namespace Sys2Proof.Tests
open Sys2Proof Sys2Proof.Machine

/-- A bit-string literal, position 0 first (R10). -/
def bits (ds : List Nat) : Bits := ds.map (· == 1)

/-- The reference script's parameters (95 Appendix A): NMAX = 64, MAX_CORR(n) = n. -/
def P64 : Params := ⟨64, id⟩

/-- 95 V12: MAX_CORR(n) = 1. -/
def P1 : Params := ⟨64, fun _ => 1⟩

/-- The next state, if there is one. -/
def nextOf : Result → Option State
  | .next t => some t
  | _ => none

/-- After reset, with a buffer and a window descriptor. -/
def withWin (b : Bits) (a w : Nat) : State := { State.reset with buf := some b, a := zext a, w := zext w }

/-- After reset, with a buffer and a parameter triple. -/
def withTriple (b : Bits) (n l p : Nat) : State := { State.reset with buf := some b, n := zext n, l := zext l, p := zext p }

/-- After an execution-phase error (R254). -/
def poisoned : State := State.reset.poison

/-- After reset, with a host script. -/
def scripted (acts : List HostAction) : State := State.reset.setScript acts

/-! ## Well-formedness: each check refuses an ill-formed term -/

theorem test_wf_access_size : HostAction.wellFormed P64 (.read .byte 0x04#8) = false := by decide
theorem test_wf_access_alignment : HostAction.wellFormed P64 (.write .word 0x02#8 0#32) = false := by decide
theorem test_wf_access_reserved : HostAction.wellFormed P64 (.read .word 0x28#8) = false := by decide
theorem test_wf_access_defined : HostAction.wellFormed P64 (.read .word 0x24#8) = true := by decide
theorem test_wf_load_too_long : HostAction.wellFormed P64 (.loadBuf (List.replicate 66 false)) = false := by decide
theorem test_wf_load_longest : HostAction.wellFormed P64 (.loadBuf (List.replicate 65 false)) = true := by decide
theorem test_wf_wr_value : (Stmt.wr .n (2 ^ 32)).wellFormed = false := by decide
theorem test_wf_cmd_value : (Stmt.cmd (2 ^ 32)).wellFormed = false := by decide
theorem test_wf_win_values : (Stmt.win (2 ^ 32) 0).wellFormed = false ∧ (Stmt.win 0 (2 ^ 32)).wellFormed = false := by decide
theorem test_wf_setup_n : (Stmt.setup (2 ^ 32) 1).wellFormed = false := by decide
theorem test_wf_setup_p : (Stmt.setup 4 (2 ^ 32)).wellFormed = false := by decide
theorem test_wf_setup_l : (Stmt.setup 4 (2 ^ 32 - 1)).wellFormed = false := by decide

/-! ## Decoding: every command's word written out from R70 and R71 (RSVD 31:4, OP 3:0) -/

theorem test_decode_tobits : decode 0b00000000000000000000000000000001#32 = .ok .tobits := rfl
theorem test_decode_frombits : decode 0b00000000000000000000000000000010#32 = .ok .frombits := rfl
theorem test_decode_zfunc : decode 0b00000000000000000000000000000011#32 = .ok .zfunc := rfl
theorem test_decode_periods : decode 0b00000000000000000000000000000100#32 = .ok .periods := rfl
theorem test_decode_minperiod : decode 0b00000000000000000000000000000101#32 = .ok .minperiod := rfl
theorem test_decode_scan : decode 0b00000000000000000000000000000110#32 = .ok .scan := rfl
theorem test_decode_encode : decode 0b00000000000000000000000000000111#32 = .ok .encode := rfl
theorem test_decode_decode : decode 0b00000000000000000000000000001000#32 = .ok .decode := rfl
theorem test_decode_op_zero : decode 0x00000000#32 = .error .opcodeZero := rfl
theorem test_decode_op_nine : decode 0x00000009#32 = .error .opcodeReserved := rfl
theorem test_decode_rsvd_low : decode 0x00000017#32 = .error .reservedBitsSet := rfl
theorem test_decode_rsvd_high : decode 0x80000008#32 = .error .reservedBitsSet := rfl

/-! ## Meanings (95 sections 2 to 8) -/

/-- 95 section 2.1: A does not fit in W, so it is truncated. -/
theorem test_tobits_truncates :
    (nextOf (tobitsAt P64 { State.reset with a := 6, w := 2 })).map (·.buf) = some (some (bits [0, 1])) := by decide

/-- 95 section 2.1: W = NMAX + 2 is PRECONDITION and BUF keeps its bits. -/
theorem test_tobits_too_wide :
    (nextOf (tobitsAt P64 (withWin (bits [1]) 0 66))).map (fun t => (t.status, t.buf)) = some (4#32, some (bits [1])) := by
  decide

/-- 95 section 2.1. -/
theorem test_frombits_window :
    (nextOf (exec .frombits (withWin (bits [0, 1, 1, 0]) 1 2))).map (·.res) = some (some 3#32) := by decide

/-- 95 section 2.1: all 32 bits set. -/
theorem test_frombits_32_ones :
    (nextOf (exec .frombits (withWin (List.replicate 32 true) 0 32))).map (·.res) = some (some 0xFFFFFFFF#32) := by decide

/-- 95 section 2.2. -/
theorem test_zfunc_1101101 :
    (nextOf (exec .zfunc (withWin (bits [1, 1, 0, 1, 1, 0, 1]) 0 7))).map (·.zout) = some [7, 1, 0, 4, 1, 0, 1] := by decide

/-- 95 section 2.2: the reference algorithm gives the same list. -/
theorem test_linearZ_01001010 : linearZ (bits [0, 1, 0, 0, 1, 0, 1, 0]) = [8, 0, 1, 3, 0, 3, 0, 1] := by decide

/-- 95 section 2.2: the source's own example (C1). -/
theorem test_periods_101010 :
    (nextOf (exec .periods (withWin (bits [1, 0, 1, 0, 1, 0]) 0 6))).map (·.pset) = some (bits [0, 0, 1, 0, 1, 0, 1]) := by
  decide

/-- 95 section 2.2: the empty window. -/
theorem test_periods_empty :
    (nextOf (exec .periods (withWin (bits [1]) 0 0))).map (·.pset) = some (bits [0]) := by decide

/-- 95 section 2.2. -/
theorem test_minperiod_10010 :
    (nextOf (exec .minperiod (withWin (bits [1, 0, 0, 1, 0]) 0 5))).map (·.res) = some (some 3#32) := by decide

/-- 95 section 2.2: the window's fit is tested before its emptiness. -/
theorem test_minperiod_check_order :
    (nextOf (exec .minperiod (withWin (bits [1]) 1 0))).map (·.status) = some 1#32 ∧
    (nextOf (exec .minperiod (withWin (bits [1]) 2 0))).map (·.status) = some 4#32 := by decide

/-- 95 section 3. -/
theorem test_scan_0111111 :
    (nextOf (exec .scan (withTriple (bits [0, 1, 1, 1, 1, 1, 1]) 0 6 2))).map (fun t => (t.res, t.status)) =
      some (some 1#32, 8#32) := by decide

/-- 95 section 3: P = L. -/
theorem test_scan_p_eq_l :
    (nextOf (exec .scan (withTriple (bits [0, 1, 1, 0]) 0 4 4))).map (fun t => (t.res, t.status)) =
      some (some 0#32, 8#32) := by decide

/-- The output of 95 V1. -/
def v1Out : Bits := bits [0, 1, 0, 0, 0, 0, 0, 0, 0, 0, 0, 0, 0, 0, 1, 1, 0, 0, 0, 0, 0]

/-- The start of 95 V1 (and P1). -/
def v1 : State := withTriple (List.replicate 20 false) 20 20 14

/-- 95 V1. -/
theorem test_encode_v1 :
    encodeAt P64 v1 = .next { v1 with buf := some v1Out, res := some 2#32, status := 0#32 } := by rfl

/-- 95 V12: the divergence guard. -/
theorem test_encode_v12 : encodeAt P1 v1 = .next { v1 with buf := none, res := none, status := 2#32 } := by rfl

/-- 95 W6: the replay is sequential. -/
theorem test_decode_w6 :
    (nextOf (decodeAt P64 (withTriple (bits [1, 1, 0, 0, 1, 0, 0, 0, 0]) 8 8 4))).map (fun t => (t.buf, t.res)) =
      some (some (List.replicate 8 true), some 1#32) := by rfl

/-- 95 section 6.2: no marker in the scanned positions, though there are ones on both sides. -/
theorem test_decode_no_marker :
    (nextOf (decodeAt P64 (withTriple (bits [1, 0, 0, 0, 1, 0, 0, 0, 0]) 8 8 4))).map (fun t => (t.buf, t.status)) =
      some (none, 3#32) := by rfl

/-- 95 section 7: the value of K. -/
theorem test_k_values :
    readReg .k { State.reset with n := 20#32 } = .ok 5#32 ∧ readReg .k { State.reset with n := 16#32 } = .ok 4#32 ∧
    readReg .k { State.reset with n := 17#32 } = .ok 5#32 ∧
    readReg .k { State.reset with n := 0xFFFFFFFF#32 } = .ok 32#32 := ⟨rfl, rfl, rfl, rfl⟩

/-- 95 section 7: an illegal word is not a poison fault. -/
theorem test_illegal_word_on_poison :
    step (poisoned.withFetchWord 32 0x10) = .next { poisoned with status := 5#32 } := by rfl

/-- 95 section 7: SCAN on poison is the model fault. -/
theorem test_scan_on_poison : step (poisoned.withFetchWord 32 6) = .fault (.commandOnPoisonedBuf .scan) := by rfl

/-- 95 section 7: MINPERIOD right after reset. -/
theorem test_minperiod_after_reset :
    (nextOf (step (State.reset.withFetchWord 32 5))).map (·.status) = some 1#32 := by decide

/-- 95 section 8, P2's first lines, as the actions they stand for. -/
theorem test_expand_win_tobits :
    assemble [.win 21 6, .issue .tobits] =
      [.write .word 0x14#8 21#32, .write .word 0x18#8 6#32, .write .word 0x00#8 1#32] := by decide

/-- R266: an address falls in the instance whose register space holds it. -/
theorem test_locate_second_instance :
    locate [⟨0x1000, State.reset⟩, ⟨0x2000, State.reset⟩] 0x2008 = some (1, 0x08#8) := by decide

/-! ## Witnesses: for each obligation with hypotheses, inputs that meet them -/

theorem four_le_nmax : 4 ≤ Config.params.nmax := params_legal.four_le_nmax

theorem test_witness_DecodeEncodeAgree : Instr.wellFormed .scan = true ∧ decode 6#32 = .ok .scan := ⟨rfl, rfl⟩

theorem test_witness_StepRunsDecodedCommand :
    (scripted [.write .word 0x00#8 7#32]).script = .write .word 0x00#8 7#32 :: [] ∧ decode 7#32 = .ok .encode := ⟨rfl, rfl⟩

/-- Each of the three ways a word is illegal, at its boundary values. -/
theorem test_witness_IllegalWordRaisesIllegalCommand :
    (scripted [.write .word 0x00#8 0x10#32]).script = .write .word 0x00#8 0x10#32 :: [] ∧
    (0x10#32).toNat / 16 ≠ 0 ∧ (0x80000008#32).toNat / 16 ≠ 0 ∧ (0#32).toNat % 16 = 0 ∧
    9 ≤ (9#32).toNat % 16 ∧ 9 ≤ (15#32).toNat % 16 := ⟨rfl, by decide⟩

theorem test_witness_IdleBlockHoldsState : State.reset.script = [] := rfl

/-- The last reserved offset, and misaligned ones next to a register. -/
theorem test_witness_RegisterMapOffsets :
    (0x01#8).toNat % 4 ≠ 0 ∧ (0x23#8).toNat % 4 ≠ 0 ∧ 0x28 ≤ (0x28#8).toNat ∧ 0x28 ≤ (0xFC#8).toNat := by decide

/-- RES and BUF_LEN with and without poison, and K at N = 0, 16, 17 and 2^32 - 1. -/
theorem test_witness_RegisterReadReturns :
    (scripted [.read .word 0x1C#8]).script = .read .word 0x1C#8 :: [] ∧
    (scripted [.read .word 0x1C#8]).res = some 0#32 ∧
    (poisoned.setScript [.read .word 0x1C#8]).res = none ∧
    (scripted [.read .word 0x20#8]).buf = some [] ∧
    (poisoned.setScript [.read .word 0x20#8]).buf = none ∧
    ((0#32).toNat ≤ 2 ^ 0 ∧ ∀ j, (0#32).toNat ≤ 2 ^ j → 0 ≤ j) ∧
    ((16#32).toNat ≤ 2 ^ 4 ∧ ∀ j, (16#32).toNat ≤ 2 ^ j → 4 ≤ j) ∧
    ((17#32).toNat ≤ 2 ^ 5 ∧ ∀ j, (17#32).toNat ≤ 2 ^ j → 5 ≤ j) ∧
    ((0xFFFFFFFF#32).toNat ≤ 2 ^ 32 ∧ ∀ j, (0xFFFFFFFF#32).toNat ≤ 2 ^ j → 32 ≤ j) := by
  have least : ∀ n k j : Nat, 2 ^ k < n → n ≤ 2 ^ j → k + 1 ≤ j := fun n k j h1 h2 =>
    (Nat.pow_lt_pow_iff_right (by decide : 1 < 2)).mp (lt_of_lt_of_le h1 h2)
  exact ⟨rfl, rfl, rfl, rfl, rfl, ⟨by decide, fun _ _ => Nat.zero_le _⟩, ⟨by decide, fun j h => least _ 3 j (by decide) h⟩,
    ⟨by decide, fun j h => least _ 4 j (by decide) h⟩, ⟨by decide, fun j h => least _ 31 j (by decide) h⟩⟩

theorem test_witness_OperandWriteThenRead :
    (scripted [.write .word 0x18#8 0xFFFFFFFF#32, .read .word 0x18#8]).script =
      .write .word 0x18#8 0xFFFFFFFF#32 :: .read .word 0x18#8 :: [] := rfl

/-- A read-only register, an operand register, the first and last offset of the last clause, and the reads. -/
theorem test_witness_ReadOnlyRegistersIgnoreWrites :
    (scripted [.write .word 0x1C#8 7#32]).script = .write .word 0x1C#8 7#32 :: [] ∧
    (scripted [.write .word 0x14#8 7#32]).script = .write .word 0x14#8 7#32 :: [] ∧
    ((0x04#8).toNat % 4 = 0 ∧ (0x24#8).toNat % 4 = 0 ∧ (0x24#8).toNat ≤ 0x24) ∧
    (∃ t, step (scripted [.read .word 0x24#8]) = .next t) ∧
    (scripted [.read .word 0x00#8]).script = .read .word 0x00#8 :: [] := ⟨rfl, rfl, by decide, ⟨_, rfl⟩, rfl⟩

/-- The last register's offset, the first reserved one, and the three ways to be refused. -/
theorem test_witness_AccessRefusedExactlyWhenIllegal :
    (scripted [.read .word 0x24#8]).script = .read .word 0x24#8 :: [] ∧
    step (scripted [.read .word 0x28#8]) = .refused .reservedOffset ∧
    step (scripted [.read .word 0xFC#8]) = .refused .reservedOffset ∧
    step (scripted [.write .word 0x02#8 0#32]) = .refused .misalignedAccess ∧
    step (scripted [.write .half 0x00#8 1#32]) = .refused .subWordAccess := ⟨rfl, rfl, rfl, rfl, rfl⟩

/-- The empty load, the longest one, and one bit more. -/
theorem test_witness_LoadBufRule :
    (scripted [.loadBuf []]).script = .loadBuf [] :: [] ∧ ([] : Bits).length ≤ Config.params.nmax + 1 ∧
    (List.replicate (Config.params.nmax + 1) false).length ≤ Config.params.nmax + 1 ∧
    Config.params.nmax + 1 < (List.replicate (Config.params.nmax + 2) false).length := ⟨rfl, by simp, by simp, by simp⟩

theorem test_witness_ArrayReadRules :
    (scripted [.readBuf]).script = .readBuf :: [] ∧ (scripted [.readBuf]).buf = some [] ∧
    (poisoned.setScript [.readBuf]).buf = none ∧ (scripted [.readZout]).script = .readZout :: [] ∧
    (scripted [.readPset]).script = .readPset :: [] ∧
    ∃ t, step (scripted [.loadBuf (bits [1])]) = .next t := by
  refine ⟨rfl, rfl, rfl, rfl, rfl, (scripted []).setBuf (bits [1]), ?_⟩
  rw [step_of_cons (s := scripted [.loadBuf (bits [1])]) rfl]
  exact (loadBufAt_next_iff Config.params (bits [1]) (scripted []) _).mpr
    ⟨show 1 ≤ _ from Nat.succ_le_succ (Nat.zero_le _), rfl⟩

theorem test_witness_ResetValues : (scripted [.reset]).script = .reset :: [] := rfl

/-- SETUP as in P1, and at the largest `l` that a register holds. -/
theorem test_witness_SetupAndWinWriteOperands :
    (Stmt.setup 20 14).wellFormed = true ∧ (Stmt.setup (2 ^ 32 - 1) (2 ^ 32 - 34)).wellFormed = true ∧
    (scripted (expand (.setup 20 14))).script = expand (.setup 20 14) ++ [] ∧
    (Stmt.win (2 ^ 32 - 1) 0).wellFormed = true := by decide

/-- W = 0 and W = 5 fit any NMAX; W = 2^32 - 1 fits none. -/
theorem test_witness_TobitsRule :
    State.reset.w.toNat ≤ Config.params.nmax + 1 ∧ (withWin [] 21 5).w.toNat ≤ Config.params.nmax + 1 ∧
    Config.params.nmax + 1 < (withWin [] 0 0xFFFFFFFF).w.toNat := by
  have h := params_legal.nmax_le
  have h4 := four_le_nmax
  refine ⟨Nat.zero_le _, ?_, ?_⟩
  · show 5 ≤ _; omega
  · show _ < 4294967295; omega

/-- The clauses where they meet: A + W = BUF_LEN and one more; W = 32 and 33; the empty window at the end. -/
theorem test_witness_FrombitsRule :
    ((withWin (bits [1, 0, 1, 0]) 4 0).a.toNat + (withWin (bits [1, 0, 1, 0]) 4 0).w.toNat ≤ 4 ∧
      (withWin (bits [1, 0, 1, 0]) 4 0).w.toNat ≤ 32) ∧
    (bits [1, 0, 1, 0]).length < (withWin (bits [1, 0, 1, 0]) 3 2).a.toNat + (withWin (bits [1, 0, 1, 0]) 3 2).w.toNat ∧
    32 < (withWin (List.replicate 40 true) 0 33).w.toNat ∧ (withWin (List.replicate 32 true) 0 32).w.toNat ≤ 32 ∧
    poisoned.buf = none := by decide

/-- A window that ends with BUF, one that ends beyond it, and poison; for ZFUNC, PERIODS and MINPERIOD. -/
theorem test_witness_ZfuncRule :
    (withWin (bits [1, 0, 1]) 1 2).buf = some (bits [1, 0, 1]) ∧
    (withWin (bits [1, 0, 1]) 1 2).a.toNat + (withWin (bits [1, 0, 1]) 1 2).w.toNat ≤ (bits [1, 0, 1]).length ∧
    (bits [1, 0, 1]).length < (withWin (bits [1, 0, 1]) 2 2).a.toNat + (withWin (bits [1, 0, 1]) 2 2).w.toNat ∧
    poisoned.buf = none := by decide

theorem test_witness_PeriodsRule :
    (withWin (bits [1]) 0 0).a.toNat + (withWin (bits [1]) 0 0).w.toNat ≤ (bits [1]).length ∧
    (bits [1]).length < (withWin (bits [1]) 0 2).a.toNat + (withWin (bits [1]) 0 2).w.toNat ∧ poisoned.buf = none := by decide

/-- Lengths 0 and 1, where EMPTY_INPUT and the result meet, and the window that does not fit though it is empty. -/
theorem test_witness_MinperiodRule :
    ((withWin (bits [1]) 0 1).a.toNat + (withWin (bits [1]) 0 1).w.toNat ≤ 1 ∧ 1 ≤ (withWin (bits [1]) 0 1).w.toNat) ∧
    ((withWin (bits [1]) 1 0).a.toNat + (withWin (bits [1]) 1 0).w.toNat ≤ 1 ∧ (withWin (bits [1]) 1 0).w.toNat = 0) ∧
    1 < (withWin (bits [1]) 2 0).a.toNat + (withWin (bits [1]) 2 0).w.toNat ∧ poisoned.buf = none := by decide

/-- No violation (P = 1), a first violation at offset 1 (95 section 3), and each check failing at its boundary. -/
theorem test_witness_ScanRule :
    ((withTriple (bits [0, 1, 1, 0]) 0 4 1).l.toNat ≤ (bits [0, 1, 1, 0]).length ∧
      ∀ i q : Nat, i + 4 ≤ (bits [0, 1, 1, 0]).length → q < 1 → ¬ IsPeriod (slice (bits [0, 1, 1, 0]) i 4) q) ∧
    (IsPeriod (slice (bits [0, 1, 1, 1, 1, 1, 1]) 1 6) 1 ∧
      ∀ i q : Nat, i < 1 → q < 2 → ¬ IsPeriod (slice (bits [0, 1, 1, 1, 1, 1, 1]) i 6) q) ∧
    (withTriple (bits [0, 1, 1, 0]) 0 2 0).p.toNat = 0 ∧
    (withTriple (bits [0, 1, 1, 0]) 0 2 3).l.toNat < (withTriple (bits [0, 1, 1, 0]) 0 2 3).p.toNat ∧
    (bits [0, 1, 1, 0]).length < (withTriple (bits [0, 1, 1, 0]) 0 5 2).l.toNat ∧ poisoned.buf = none := by
  refine ⟨⟨by decide, fun i q _ hq h => absurd h.1 (by omega)⟩, ⟨by decide, fun i q hi hq h => ?_⟩, by decide⟩
  obtain rfl : i = 0 := by omega
  obtain rfl : q = 1 := by have := h.1; omega
  exact absurd h (by decide)

/-- 95 V1 completes, V12 diverges; the parameter and length checks of 95 section 4 fail. -/
theorem test_witness_EncodeRule :
    ValidParams P64.nmax v1.n.toNat v1.l.toNat v1.p.toNat ∧ v1.buf = some (List.replicate 20 false) ∧
    encodeCore (P64.maxCorr 20) 20 20 14 (List.replicate 20 false) = .ok ⟨v1Out, 2, 2, false⟩ ∧
    encodeCore (P1.maxCorr 20) 20 20 14 (List.replicate 20 false) = .error .encodingDiverged ∧
    ¬ ValidParams 64 20 19 14 ∧ ¬ ValidParams 64 3 3 1 ∧ ¬ ValidParams 64 0 0 0 ∧
    (List.replicate 19 false).length ≠ v1.n.toNat ∧ poisoned.buf = none := by
  refine ⟨by decide, rfl, rfl, rfl, by decide⟩

/-- The smallest valid triple (R171), which every NMAX admits. -/
theorem smallest_triple_valid : ValidParams Config.params.nmax 4 4 1 := by
  have := four_le_nmax
  exact ⟨by omega, this, by omega, by omega, by omega, by decide⟩

/-- 95 V10, on this machine's own NMAX and MAX_CORR. -/
theorem test_witness_EncodeCompletes :
    (withTriple (bits [1, 0, 0, 1]) 4 4 1).buf = some (bits [1, 0, 0, 1]) ∧ (bits [1, 0, 0, 1]).length = 4 ∧
    ValidParams Config.params.nmax 4 4 1 ∧ Sat (bits [1, 0, 0, 1] ++ [true]) 4 1 ∧
    encodeCore (Config.params.maxCorr 4) 4 4 1 (bits [1, 0, 0, 1]) = .ok ⟨bits [1, 0, 0, 1, 1], 0, 1, false⟩ :=
  ⟨rfl, rfl, smallest_triple_valid, by decide, rfl⟩

/-- 95 W1 and section 6.2: a result, an execution-phase error, wrong parameters, a wrong length, poison. -/
theorem test_witness_DecodeRule :
    ValidParams P64.nmax 20 20 14 ∧ v1Out.length = 21 ∧
    decodeCore (P64.maxCorr 20) 20 20 14 v1Out = .ok (List.replicate 20 false, 2) ∧
    decodeCore (P1.maxCorr 20) 20 20 14 v1Out = .error .malformedStream ∧
    ¬ ValidParams 64 8 7 4 ∧ (ValidParams 64 8 8 4 ∧ (bits [1, 0, 0, 0, 0, 0, 0, 0]).length ≠ 8 + 1) ∧
    poisoned.buf = none := ⟨by decide, by decide, rfl, rfl, by decide, by decide, rfl⟩

theorem test_witness_DecodeCompletes :
    (withTriple (bits [1, 0, 0, 1, 1]) 4 4 1).buf = some (bits [1, 0, 0, 1, 1]) ∧ (bits [1, 0, 0, 1, 1]).length = 4 + 1 ∧
    ValidParams Config.params.nmax 4 4 1 ∧ bitAt (bits [1, 0, 0, 1, 1]) 4 = true := ⟨rfl, rfl, smallest_triple_valid, rfl⟩

/-- The record loop's case of DecodeCompletes, where it ends at once whatever MAX_CORR is. -/
theorem test_witness_DecodeCompletes_loop :
    decodeCore (Config.params.maxCorr 4) 4 4 1 (bits [1, 0, 0, 1, 1]) = .ok (bits [1, 0, 0, 1], 0) := by
  unfold decodeCore
  cases Config.params.maxCorr 4 <;> rfl

theorem test_witness_CommandStopsExactlyOnPoison :
    Instr.scan ≠ .tobits ∧ poisoned.buf = none ∧ State.reset.buf ≠ none := by decide

/-- A check-phase error (MINPERIOD after reset) and an execution-phase one (V12). -/
theorem test_witness_ErrorEffectOnState :
    (∃ t, execAt P64 .minperiod State.reset = .next t ∧ statusErr t.status ≠ 0#3) ∧
    ∃ t, execAt P1 .encode v1 = .next t ∧ statusErr t.status ≠ 0#3 := ⟨⟨_, rfl, by decide⟩, ⟨_, rfl, by decide⟩⟩

theorem test_witness_StatusAfterCommand : ∃ t, execAt P64 .zfunc State.reset = .next t := ⟨_, rfl⟩

theorem test_witness_CommandFrame : ∃ t, execAt P64 .encode v1 = .next t := ⟨_, rfl⟩

/-- Two states that agree on SCAN's operands and differ elsewhere. -/
theorem test_witness_CommandReadsOnlyItsOperands :
    v1.p = (v1.setA 9#32).p ∧ v1.l = (v1.setA 9#32).l ∧ v1.buf = (v1.setA 9#32).buf ∧ v1 ≠ v1.setA 9#32 ∧
    ∃ t, execAt P64 .scan v1 = .next t ∧ statusErr t.status = 0#3 := ⟨rfl, rfl, rfl, by decide, ⟨_, rfl, by rfl⟩⟩

/-- Each way to stop, and an action that does not. -/
theorem test_witness_StepStopsExactlyOnPoisonOrBadAccess :
    (scripted [.readZout]).script = .readZout :: [] ∧
    step (poisoned.setScript [.readBuf]) = .fault .readPoisonedBuf ∧
    step (poisoned.setScript [.read .word 0x1C#8]) = .fault .readPoisonedRes ∧
    step (poisoned.setScript [.read .word 0x20#8]) = .fault .readPoisonedBufLen ∧
    step (poisoned.setScript [.write .word 0x00#8 2#32]) = .fault (.commandOnPoisonedBuf .frombits) ∧
    step (poisoned.setScript [.write .word 0x00#8 8#32]) = .fault (.commandOnPoisonedBuf .decode) ∧
    step (scripted [.read .word 0x28#8]) = .refused .reservedOffset ∧
    Config.params.nmax + 1 < (List.replicate (Config.params.nmax + 2) false).length :=
  ⟨rfl, rfl, rfl, rfl, rfl, rfl, rfl, by simp⟩

/-- A successful run of one action, and a failing one. -/
theorem test_witness_RunEndsOrStops :
    RunSucceeds (scripted [.readZout]) (State.reset.reply (.nats [])) ∧
    RunFails (poisoned.setScript [.readBuf]) := ⟨rfl, fun _ h => nomatch h⟩

/-- A state other than reset that meets the invariant, and whose next step answers. -/
theorem test_witness_StepKeepsInvariant :
    Inv Config.params ((scripted [.readBuf]).setBuf (bits [1])) ∧
    ∃ t, step ((scripted [.readBuf]).setBuf (bits [1])) = .next t := by
  refine ⟨?_, _, rfl⟩
  constructor
  · exact ⟨by decide, by decide, by decide⟩
  · intro b hb; cases hb; simp [bits]
  · intro h; cases h
  · intro h; cases h
  · exact Nat.zero_le _
  · intro z hz; cases hz
  · intro z r h; cases h
  · exact Nat.zero_le _
  · decide
  · decide

theorem test_witness_Clog2IsLeastExponent : (20 : Nat) ≤ 2 ^ 5 ∧ 1 ≤ 20 := by decide

theorem test_witness_BitVectorRoundTrip : 15 < 2 ^ 4 := by decide

theorem test_witness_PeriodSetLaws :
    bits [1, 0, 1, 0, 1, 0] ≠ [] ∧ 2 ∈ computePeriods (bits [1, 0, 1, 0, 1, 0]) ∧ 1 ≤ 3 ∧
    3 * 2 ≤ (bits [1, 0, 1, 0, 1, 0]).length := by decide

theorem test_witness_ViolationIsShortPeriod : bits [0, 1, 1, 0] ≠ [] ∧ 4 ≤ (bits [0, 1, 1, 0]).length := by decide

theorem test_witness_ValidParamsConsequences :
    ValidParams 64 20 20 14 ∧ ValidParams 4 4 4 1 ∧ 0 ∈ offsets 21 20 ∧ 1 ∈ offsets 21 20 := by decide

/-- The largest offset and the largest period of 95 V3's correction; the same for R83, R85 and R217. -/
theorem test_witness_CorrectLengthAndFrame :
    ValidParams 64 6 6 2 ∧ (bits [0, 1, 1, 1, 1, 1, 1]).length = 6 + 1 ∧ 1 ≤ 6 + 1 - 6 ∧ 1 ≤ 1 ∧ 1 < 2 := by decide

theorem test_witness_RecordAndMarkerLayout :
    ValidParams 64 20 20 14 ∧ (List.replicate 20 false ++ [true]).length = 20 + 1 ∧ 0 ≤ 20 + 1 - 20 ∧ 1 ≤ 13 ∧ 13 < 14 := by
  decide

theorem test_witness_UndoReversesCorrect :
    ValidParams 64 6 6 2 ∧ (bits [0, 1, 1, 1, 1, 1, 1]).length = 6 + 1 ∧ 1 ≤ 6 + 1 - 6 ∧
    IsPeriod (window (bits [0, 1, 1, 1, 1, 1, 1]) 1 6) 1 := by decide

/-- 95 V3 as a history of one correction; also for DecodeInvertsEveryStream, with MAX_CORR at and below its count. -/
theorem test_witness_StreamLengthAndLastBit :
    ValidParams 64 6 6 2 ∧ (bits [0, 1, 1, 1, 1, 1]).length = 6 ∧
    EncodedStream 6 6 2 (bits [0, 1, 1, 1, 1, 1]) 0 (bits [0, 1, 1, 1, 1, 1, 1]) ∧
    EncodedStream 6 6 2 (bits [0, 1, 1, 1, 1, 1]) 1 (bits [0, 1, 1, 1, 0, 0, 0]) :=
  ⟨by decide, rfl, .start, .next 0 1 1 _ .start (by decide) (by decide) (by decide)⟩

theorem test_witness_DecodeInvertsEveryStream :
    ValidParams 64 6 6 2 ∧ EncodedStream 6 6 2 (bits [0, 1, 1, 1, 1, 1]) 1 (bits [0, 1, 1, 1, 0, 0, 0]) ∧ 1 ≤ 1 ∧ 0 < 1 :=
  ⟨by decide, .next 0 1 1 _ .start (by decide) (by decide) (by decide), by decide, by decide⟩

/-- 95 section 6.2: index 2 beyond the last offset 1, index 0 with no marker, and index 0 with the marker at 1. -/
theorem test_witness_UndoOutcome :
    ValidParams 64 8 8 4 ∧
    (2 = fromBits (slice (bits [1, 0, 0, 0, 0, 0, 1, 0, 0]) (8 - clog2 8) (clog2 8)) ∧ 8 + 1 - 8 < 2) ∧
    (0 = fromBits (slice (bits [1, 0, 0, 0, 1, 0, 0, 0, 0]) (8 - clog2 8) (clog2 8)) ∧ 0 ≤ 8 + 1 - 8 ∧
      ∀ x ∈ [1, 2, 3], bitAt (bits [1, 0, 0, 0, 1, 0, 0, 0, 0]) x = false) ∧
    (0 = fromBits (slice (bits [1, 1, 0, 0, 1, 0, 0, 0, 0]) (8 - clog2 8) (clog2 8)) ∧ 0 + 1 ≤ 1 ∧ 1 ≤ 0 + 4 - 1 ∧
      bitAt (bits [1, 1, 0, 0, 1, 0, 0, 0, 0]) 1 = true ∧
      ∀ x ∈ [2, 3], bitAt (bits [1, 1, 0, 0, 1, 0, 0, 0, 0]) x = false) ∧
    (1 = fromBits (slice (bits [0, 0, 0, 0, 1, 1, 0, 0, 0]) (8 - clog2 8) (clog2 8)) ∧ 1 ≤ 8 + 1 - 8 ∧
      1 + 1 ≤ 4 ∧ 4 ≤ 1 + 4 - 1 ∧ bitAt (bits [0, 0, 0, 0, 1, 1, 0, 0, 0]) 4 = true) := by decide

/-- The trace of 95 V3: pass 1 keeps offset 0, corrects offset 1 and ends; pass 2 keeps both. -/
theorem v3_trace_pass1 :
    EncodeReaches 6 6 2 (bits [0, 1, 1, 1, 1, 1]) 1 1 0 false (bits [0, 1, 1, 1, 1, 1, 1]) :=
  .keep 1 0 0 false _ 6 .start (by decide) (by decide) (by decide)

theorem v3_trace_pass2 : EncodeReaches 6 6 2 (bits [0, 1, 1, 1, 1, 1]) 2 0 1 false (bits [0, 1, 1, 1, 0, 0, 0]) :=
  .again 1 1 _ (.fix 1 1 0 false _ 1 v3_trace_pass1 (by decide) (by decide) (by decide))

theorem v3_trace_end : EncodeReaches 6 6 2 (bits [0, 1, 1, 1, 1, 1]) 2 2 1 false (bits [0, 1, 1, 1, 0, 0, 0]) :=
  .keep 2 1 1 false _ 6 (.keep 2 0 1 false _ 5 v3_trace_pass2 (by decide) (by decide) (by decide))
    (by decide) (by decide) (by decide)

/-- 95 V3, which has a pass after its first. -/
theorem test_witness_EncodeAlwaysEnds :
    ValidParams 64 6 6 2 ∧ (bits [0, 1, 1, 1, 1, 1]).length = 6 ∧
    EncodeReaches 6 6 2 (bits [0, 1, 1, 1, 1, 1]) (1 + 1) 0 1 false (bits [0, 1, 1, 1, 0, 0, 0]) :=
  ⟨by decide, rfl, v3_trace_pass2⟩

/-- 95 V3: its end, and with MAX_CORR = 0 the violation at offset 1 of pass 1. -/
theorem test_witness_EncodeLoopFollowsTrace :
    ValidParams 64 6 6 2 ∧ (bits [0, 1, 1, 1, 1, 1]).length = 6 ∧
    EncodeReaches 6 6 2 (bits [0, 1, 1, 1, 1, 1]) 2 (6 + 2 - 6) 1 false (bits [0, 1, 1, 1, 0, 0, 0]) ∧
    encodeCore 6 6 6 2 (bits [0, 1, 1, 1, 1, 1]) = .ok ⟨bits [0, 1, 1, 1, 0, 0, 0], 1, 2, false⟩ ∧
    (EncodeReaches 6 6 2 (bits [0, 1, 1, 1, 1, 1]) 1 1 0 false (bits [0, 1, 1, 1, 1, 1, 1]) ∧
      computeMinPeriod (window (bits [0, 1, 1, 1, 1, 1, 1]) 1 6) = some 1) ∧
    encodeCore 0 6 6 2 (bits [0, 1, 1, 1, 1, 1]) = .error .encodingDiverged :=
  ⟨by decide, rfl, v3_trace_end, rfl, ⟨v3_trace_pass1, by decide⟩, rfl⟩

/-- 95 V11: a payload that needs no correction. -/
theorem test_witness_NoCorrectionCase :
    ValidParams 64 8 8 4 ∧ (bits [0, 1, 1, 0, 1, 0, 0, 1]).length = 8 ∧
    Sat (bits [0, 1, 1, 0, 1, 0, 0, 1] ++ [true]) 8 4 := by decide

theorem test_witness_EncodeOutputGuarantees :
    P64.Legal ∧ ∃ t, execAt P64 .encode v1 = .next t ∧ statusErr t.status = 0#3 :=
  ⟨default_maxCorr_legal (by decide) (by decide), _, rfl, by decide⟩

theorem test_witness_EncodeDecodeRoundTrip :
    ∃ t, execAt P64 .encode v1 = .next t ∧ statusErr t.status = 0#3 ∧ t.buf = some v1Out := ⟨_, rfl, by decide, rfl⟩

/-- 95 W1 within a bound of 2, and beyond one of 1. -/
theorem test_witness_DecodeCountBound :
    ValidParams 64 20 20 14 ∧ v1Out.length = 20 + 1 ∧
    decodeCore 2 20 20 14 v1Out = .ok (List.replicate 20 false, 2) ∧
    decodeCore 1 20 20 14 v1Out = .error .malformedStream := ⟨by decide, by decide, rfl, rfl⟩

/-- 95 V3's output: one record undone, then the terminator; with MAX_CORR = 0 the record is left. And a failing undo. -/
theorem test_witness_DecodeLoopFollowsTrace :
    ValidParams 64 6 6 2 ∧ (bits [0, 1, 1, 1, 0, 0, 0]).length = 6 + 1 ∧
    DecodeReaches 6 6 2 (bits [0, 1, 1, 1, 0, 0, 0]) 1 (bits [0, 1, 1, 1, 1, 1, 1]) ∧
    decodeCore 1 6 6 2 (bits [0, 1, 1, 1, 0, 0, 0]) = .ok (bits [0, 1, 1, 1, 1, 1], 1) ∧
    decodeCore 0 6 6 2 (bits [0, 1, 1, 1, 0, 0, 0]) = .error .malformedStream ∧
    undo 8 8 4 (bits [1, 0, 0, 0, 1, 0, 0, 0, 0]) = .error .malformedStream :=
  ⟨by decide, rfl, .next 0 _ _ .start (by decide) rfl, rfl, rfl, rfl⟩

theorem test_witness_DecodeIsNotInjective :
    (List.replicate 8 false).length = 8 ∧ ∃ v, encodeCore 8 8 8 4 (List.replicate 8 false) = .ok v := ⟨rfl, _, rfl⟩

/-- An action that answers, one that faults and one that is refused, on the second of two instances. -/
theorem test_witness_InstancesAreIsolated :
    (([⟨0, State.reset⟩, ⟨256, poisoned⟩] : Platform)[1]? = some ⟨256, poisoned⟩) ∧
    (∃ t, perform .readZout poisoned = .next t) ∧ perform .readBuf poisoned = .fault .readPoisonedBuf ∧
    perform (.read .byte 0#8) poisoned = .refused .subWordAccess := ⟨rfl, ⟨_, rfl⟩, rfl, rfl⟩

end Sys2Proof.Tests
end

section
/-!
PROOFS. `clog2` is the least exponent (spec 00_scope.md R12). The two bounds on the search are proved by induction on
its fuel; every other fact about `clog2` follows from `clog2_le_iff`.
-/

namespace Sys2Proof.Machine

/-- The search reaches `n` when the fuel reaches an exponent that does. -/
theorem le_two_pow_clog2From {n fuel k : Nat} (h : n ≤ 2 ^ (k + fuel)) : n ≤ 2 ^ clog2From n fuel k := by
  induction fuel generalizing k with
  | zero => exact h
  | succ fuel ih =>
    unfold clog2From
    split
    next hk => exact hk
    next => exact ih (by rwa [Nat.add_right_comm, Nat.add_assoc])

/-- The search passes no exponent that reaches `n`. -/
theorem clog2From_le {n fuel k j : Nat} (hkj : k ≤ j) (h : n ≤ 2 ^ j) : clog2From n fuel k ≤ j := by
  induction fuel generalizing k with
  | zero => exact hkj
  | succ fuel ih =>
    unfold clog2From
    split
    next => exact hkj
    next hk => exact ih (lt_of_le_of_ne hkj (fun heq => hk (heq ▸ h)))

/-- The fuel `n` is enough, because `n ≤ 2 ^ n`. -/
theorem le_two_pow_clog2 (n : Nat) : n ≤ 2 ^ clog2 n :=
  le_two_pow_clog2From (by simpa using Nat.lt_two_pow_self.le)

/-- The Galois connection that determines `clog2`. -/
theorem clog2_le_iff {n j : Nat} : clog2 n ≤ j ↔ n ≤ 2 ^ j :=
  ⟨fun h => (le_two_pow_clog2 n).trans (Nat.pow_le_pow_right two_pos h), clog2From_le j.zero_le⟩

/-- The model's search and Mathlib's ceiling logarithm are the same function. -/
theorem clog2_eq_clog (n : Nat) : clog2 n = Nat.clog 2 n :=
  eq_of_forall_ge_iff fun _ => clog2_le_iff.trans (Nat.clog_le_iff_le_pow one_lt_two).symm

theorem clog2_eq_ceil_logb (n : Nat) : (clog2 n : ℤ) = ⌈Real.logb 2 n⌉ := by
  have hceil : ⌈Real.logb (2 : Nat) n⌉ = Int.clog 2 (n : ℝ) := Real.ceil_logb_natCast n.cast_nonneg
  rw [clog2_eq_clog, ← Int.clog_natCast (R := ℝ), ← hceil, Nat.cast_ofNat]

/-- Settles O35: the least exponent by `clog2_le_iff`, the ceiling through Mathlib's `Nat.clog`, and R12's seven
examples by evaluation. -/
theorem clog2IsLeastExponent : Obligations.Clog2IsLeastExponent := by
  unfold Obligations.Clog2IsLeastExponent
  refine ⟨fun n => ⟨le_two_pow_clog2 n, fun _ => clog2_le_iff.mpr⟩, fun n _ => clog2_eq_ceil_logb n, ?_⟩
  decide

end Sys2Proof.Machine
end


section
/-!
PROOFS. Register accesses and RESET as steps (spec 10_state.md R22, R41 to R43). The rules speak of a register by its
`regOffset`; `exists_regOffset_eq` turns an offset of the register map into that form.
-/

namespace Sys2Proof.Machine

/-! ## Offsets and registers -/

/-- The word-aligned offsets up to 0x24 are the ten registers' (R22). -/
theorem exists_regOffset_eq {offset : BitVec 8} (haligned : offset.toNat % 4 = 0) (hle : offset.toNat ≤ 0x24) :
    ∃ r, regOffset r = offset := by
  obtain ⟨k, hk⟩ : ∃ k, offset.toNat = 4 * k := ⟨_, (Nat.mul_div_cancel' (Nat.dvd_of_mod_eq_zero haligned)).symm⟩
  obtain ⟨r, hr⟩ : ∃ r, (regOffset r).toNat = 4 * k := by
    have hk_lt : k < 10 := by omega
    interval_cases k
    exacts [⟨.cmd, rfl⟩, ⟨.status, rfl⟩, ⟨.n, rfl⟩, ⟨.p, rfl⟩, ⟨.l, rfl⟩, ⟨.a, rfl⟩, ⟨.w, rfl⟩, ⟨.res, rfl⟩,
      ⟨.bufLen, rfl⟩, ⟨.k, rfl⟩]
  exact ⟨r, BitVec.eq_of_toNat_eq (hr.trans hk.symm)⟩

/-- A register write by its offset (R42, R43): each operand register takes the value exactly at its own offset. -/
theorem writeReg_eq_ite_regOffset (r : Reg) (v : Word) (s : State) :
    writeReg r v s = { s with
      n := if regOffset r = 0x08#8 then v else s.n
      p := if regOffset r = 0x0C#8 then v else s.p
      l := if regOffset r = 0x10#8 then v else s.l
      a := if regOffset r = 0x14#8 then v else s.a
      w := if regOffset r = 0x18#8 then v else s.w } := by
  cases r <;> rfl

/-! ## Register reads -/

theorem readReg_bufLen_of_some {s : State} {b : Bits} (h : s.buf = some b) :
    readReg .bufLen s = .ok (zext b.length) := by
  simp [readReg, bufLen_of_some h]

theorem readReg_k (s : State) : readReg .k s = .ok (zext (clog2 s.n.toNat)) := rfl

/-! ## Steps -/

/-- A word write at a register other than CMD stores in that register and has no side effect (R43). -/
theorem step_write_regOffset {s : State} {r : Reg} {v : Word} {rest : List HostAction} (hr : r ≠ .cmd)
    (hs : s.script = .write .word (regOffset r) v :: rest) :
    step s = .next (writeReg r v (s.setScript rest)) := by
  rw [step_of_cons hs]
  change writeWord exec .word (regOffset r) v (s.setScript rest) = _
  simp [writeWord, hr]

/-- A word read of a register that is not poisoned returns its value. -/
theorem step_read_regOffset {s : State} {r : Reg} {v : Word} {rest : List HostAction}
    (hv : readReg r (s.setScript rest) = .ok v) (hs : s.script = .read .word (regOffset r) :: rest) :
    step s = .next ((s.setScript rest).reply (.word v)) := by
  rw [step_of_cons hs]
  change readWord .word (regOffset r) (s.setScript rest) = _
  simp [readWord, hv]

/-- A register read that answers, at whatever offset, changes only what the host has received. -/
theorem step_read_next {s t : State} {size : AccessSize} {offset : BitVec 8} {rest : List HostAction}
    (hs : s.script = .read size offset :: rest) (ht : step s = .next t) :
    ∃ v, t = (s.setScript rest).reply (.word v) := by
  rw [step_of_cons hs] at ht
  obtain ⟨_, v, _, _, rfl⟩ := readWord_next ht
  exact ⟨v, rfl⟩

theorem step_reset {s : State} {rest : List HostAction} (hs : s.script = .reset :: rest) :
    step s = .next (resetBlock (s.setScript rest)) := step_of_cons hs

/-! ## The statements -/

/-- Settles O10: each offset of the last clause is some register's, not CMD's, and the write there is `writeReg`; the
first clause is the four registers where `writeReg` stores nothing. -/
theorem readOnlyRegistersIgnoreWrites : Obligations.ReadOnlyRegistersIgnoreWrites := by
  unfold Obligations.ReadOnlyRegistersIgnoreWrites
  intro s rest
  refine ⟨?readOnly, step_read_regOffset (r := .cmd) rfl, fun _ _ _ => step_read_next, ?anyWrite⟩
  case readOnly =>
    rintro offset v (rfl | rfl | rfl | rfl)
    · exact step_write_regOffset (r := .status) (by decide)
    · exact step_write_regOffset (r := .res) (by decide)
    · exact step_write_regOffset (r := .bufLen) (by decide)
    · exact step_write_regOffset (r := .k) (by decide)
  case anyWrite =>
    intro offset v haligned hne hle hs
    obtain ⟨r, rfl⟩ := exists_regOffset_eq haligned hle
    have hr : r ≠ .cmd := fun hcmd => hne (congrArg regOffset hcmd)
    rw [step_write_regOffset hr hs, writeReg_eq_ite_regOffset]
    rfl

/-- Settles O14: the state after reset is `resetBlock` of itself, so both states are `resetBlock v` for some `v`, and
BUF_LEN and K are computed from its empty BUF and its N of 0. -/
theorem resetValues : Obligations.ResetValues := by
  unfold Obligations.ResetValues
  intro s rest hs
  refine ⟨_, step_reset hs, fun u hu => ?_⟩
  obtain ⟨v, rfl⟩ : ∃ v, u = resetBlock v := hu.elim (fun h => ⟨_, h⟩) (fun h => ⟨State.reset, h⟩)
  have hbufLen : readReg .bufLen (resetBlock v) = .ok 0#32 := readReg_bufLen_of_some (resetBlock_buf v)
  have hk : readReg .k (resetBlock v) = .ok 0#32 := readReg_k (resetBlock v)
  exact ⟨resetBlock_status v, resetBlock_n v, resetBlock_p v, resetBlock_l v, resetBlock_a v, resetBlock_w v,
    resetBlock_res v, resetBlock_buf v, resetBlock_zout v, resetBlock_pset v, rfl, hbufLen, hk⟩

end Sys2Proof.Machine
end


section
/-!
PROOFS. The array actions LOAD_BUF, READ_BUF, READ_ZOUT and READ_PSET as steps, and the frame of ZOUT and PSET (spec
20_memory.md R54 to R57).
-/

namespace Sys2Proof.Machine

/-! ## Offsets and registers -/

/-- The register map assigns each offset to one register (R22), so a register determines its offset. -/
theorem eq_regOffset_of_regAt {offset : BitVec 8} {r : Reg} (h : regAt offset = some r) : offset = regOffset r := by
  unfold regAt at h
  split at h <;> cases h
  all_goals next hoff => exact BitVec.eq_of_toNat_eq hoff

/-- An access that reaches a register is a whole word at that register's offset (R52). -/
theorem eq_regOffset_of_selectReg {size : AccessSize} {offset : BitVec 8} {r : Reg}
    (h : selectReg size offset = .ok r) : size = .word ∧ offset = regOffset r := by
  obtain ⟨hsize, _, hreg⟩ := (selectReg_ok_iff size offset r).mp h
  exact ⟨hsize, eq_regOffset_of_regAt hreg⟩

/-! ## Steps -/

theorem step_loadBuf_of_fits {s : State} {bits : Bits} {rest : List HostAction}
    (hfits : bits.length ≤ Config.params.nmax + 1) (hs : s.script = .loadBuf bits :: rest) :
    step s = .next ((s.setScript rest).setBuf bits) :=
  (step_of_cons hs).trans ((loadBufAt_next_iff _ _ _ _).mpr ⟨hfits, rfl⟩)

theorem step_loadBuf_of_too_long {s : State} {bits : Bits} {rest : List HostAction}
    (hlong : Config.params.nmax + 1 < bits.length) (hs : s.script = .loadBuf bits :: rest) :
    step s = .refused .loadTooLong :=
  (step_of_cons hs).trans (if_neg hlong.not_ge)

theorem step_readBuf_of_some {s : State} {b : Bits} {rest : List HostAction} (hb : s.buf = some b)
    (hs : s.script = .readBuf :: rest) : step s = .next ((s.setScript rest).reply (.bits b)) :=
  (step_of_cons hs).trans ((readBuf_next_iff _ _).mpr ⟨b, hb, rfl⟩)

theorem step_readBuf_of_none {s : State} {rest : List HostAction} (hb : s.buf = none)
    (hs : s.script = .readBuf :: rest) : step s = .fault .readPoisonedBuf := by
  rw [step_of_cons hs]
  change readBuf (s.setScript rest) = _
  simp [readBuf, hb]

theorem step_readZout {s : State} {rest : List HostAction} (hs : s.script = .readZout :: rest) :
    step s = .next ((s.setScript rest).reply (.nats s.zout)) := step_of_cons hs

theorem step_readPset {s : State} {rest : List HostAction} (hs : s.script = .readPset :: rest) :
    step s = .next ((s.setScript rest).reply (.bits s.pset)) := step_of_cons hs

/-! ## The frame of ZOUT and PSET -/

/-- A write that answers at any place but CMD's leaves ZOUT and PSET: it only stores in a register. -/
theorem writeWord_zout_pset {run : Instr → State → Result} {size : AccessSize} {offset : BitVec 8} {v : Word}
    {s t : State} (hcmd : ¬ (size = .word ∧ offset = regOffset .cmd)) (ht : writeWord run size offset v s = .next t) :
    t.zout = s.zout ∧ t.pset = s.pset := by
  obtain ⟨r, hsel, ⟨rfl, _⟩ | ⟨_, rfl⟩⟩ := writeWord_next ht
  · exact absurd (eq_regOffset_of_selectReg hsel) hcmd
  · obtain ⟨_, _, _, _, _, hwrite⟩ := writeReg_frame r v s
    rw [hwrite]
    exact ⟨rfl, rfl⟩

/-- R56, R57: the host cannot write ZOUT or PSET, whatever the commands do. -/
theorem performWith_zout_pset {P : Params} {run : Instr → State → Result} {act : HostAction} {s t : State}
    (hreset : act ≠ .reset) (hcmd : ∀ v, act ≠ .write .word (regOffset .cmd) v)
    (ht : performWith P run act s = .next t) : t.zout = s.zout ∧ t.pset = s.pset := by
  cases act with
  | read size offset =>
    obtain ⟨_, _, _, _, rfl⟩ := readWord_next ht
    exact ⟨rfl, rfl⟩
  | write size offset v =>
    refine writeWord_zout_pset ?_ ht
    rintro ⟨rfl, rfl⟩
    exact hcmd v rfl
  | loadBuf bits =>
    obtain ⟨_, rfl⟩ := (loadBufAt_next_iff P bits s t).mp ht
    exact ⟨rfl, rfl⟩
  | readBuf =>
    obtain ⟨_, _, rfl⟩ := (readBuf_next_iff s t).mp ht
    exact ⟨rfl, rfl⟩
  | readZout => cases ht; exact ⟨rfl, rfl⟩
  | readPset => cases ht; exact ⟨rfl, rfl⟩
  | reset => exact absurd rfl hreset

/-! ## The statements -/

/-- Settles O12: the two outcomes of LOAD_BUF, and BUF_LEN computed from the loaded BUF. -/
theorem loadBufRule : Obligations.LoadBufRule := by
  unfold Obligations.LoadBufRule
  intro s bits rest hs
  exact ⟨fun hfits => ⟨step_loadBuf_of_fits hfits hs, readReg_bufLen_of_some rfl⟩,
    fun hlong => ⟨_, step_loadBuf_of_too_long hlong hs⟩⟩

/-- Settles O13: one step rule per array read, and the frame of ZOUT and PSET over the host's actions. -/
theorem arrayReadRules : Obligations.ArrayReadRules := by
  unfold Obligations.ArrayReadRules
  intro s rest
  refine ⟨fun _ hs hb => step_readBuf_of_some hb hs, fun hs hb => ⟨_, step_readBuf_of_none hb hs⟩, step_readZout,
    step_readPset, fun act t hs hreset hcmd ht => ?frame⟩
  case frame =>
    rw [step_of_cons hs] at ht
    exact performWith_zout_pset (s := s.setScript rest) hreset hcmd ht

end Sys2Proof.Machine
end


section
/-!
PROOFS. The command word and the CMD write (spec 30_encoding.md R70 to R72). The decoder's two fields are the quotient and
the remainder of the word by 16; which words decode is said once, by `exists_decode_ok_iff`, and the illegal words are the
others.
-/

namespace Sys2Proof.Machine

/-! ## The fields of a command word -/

theorem toNat_opField (w : Word) : (opField w).toNat = w.toNat % 16 := by
  simp [opField]

theorem rsvdField_eq_zero_iff (w : Word) : rsvdField w = 0#28 ↔ w.toNat / 16 = 0 := by
  have hfield : (rsvdField w).toNat = w.toNat / 16 := by
    have hlt := w.isLt
    simp only [rsvdField, BitVec.extractLsb'_toNat, Nat.shiftRight_eq_div_pow]
    omega
  rw [← BitVec.toNat_inj, hfield, BitVec.toNat_ofNat, Nat.zero_mod]

/-! ## Which words decode -/

theorem decode_ok_iff (w : Word) (i : Instr) :
    decode w = .ok i ↔ rsvdField w = 0#28 ∧ decodeOp (opField w) = .ok i := by
  unfold decode
  split
  next hrsvd => simp [hrsvd]
  next hrsvd => simp [hrsvd]

theorem exists_decodeOp_ok_iff (op : BitVec 4) : (∃ i, decodeOp op = .ok i) ↔ 1 ≤ op.toNat ∧ op.toNat ≤ 8 := by
  unfold decodeOp
  split
  case h_10 =>
    simp only [imp_false] at *
    simp only [reduceCtorEq, exists_false, false_iff]
    omega
  all_goals next hop => simp [hop]

/-- R71: the words that select a command. -/
theorem exists_decode_ok_iff (w : Word) :
    (∃ i, decode w = .ok i) ↔ w.toNat / 16 = 0 ∧ 1 ≤ w.toNat % 16 ∧ w.toNat % 16 ≤ 8 := by
  simp only [decode_ok_iff, exists_and_left, rsvdField_eq_zero_iff, exists_decodeOp_ok_iff, toNat_opField]

/-- R72: every other word is illegal, for one of the three reasons. -/
theorem exists_decode_error {w : Word} (h : w.toNat / 16 ≠ 0 ∨ w.toNat % 16 = 0 ∨ 9 ≤ w.toNat % 16) :
    ∃ e, decode w = .error e := by
  cases hw : decode w with
  | error e => exact ⟨e, rfl⟩
  | ok i =>
    have hlegal := (exists_decode_ok_iff w).mp ⟨i, hw⟩
    omega

/-! ## The CMD write -/

/-- A word write at CMD's offset issues its value as a command (R23). -/
theorem step_write_cmd {s : State} {w : Word} {rest : List HostAction}
    (hs : s.script = .write .word (regOffset .cmd) w :: rest) : step s = issueCommand exec w (s.setScript rest) := by
  rw [step_of_cons hs]
  change writeWord exec .word (regOffset .cmd) w (s.setScript rest) = _
  simp [writeWord]

/-- An illegal word sets STATUS, whatever the commands mean (R72). -/
theorem issueCommand_of_error {run : Instr → State → Result} {w : Word} {e : IllegalWord} (he : decode w = .error e)
    (s : State) : issueCommand run w s = .next (s.setStatus 5#32) := by
  simp only [issueCommand, he, illegalCommand, raiseCheck_next_iff]
  rfl

/-! ## The statements -/

/-- Settles O1: `exists_decode_ok_iff`, and the eight rows of the opcode map by evaluation. -/
theorem opcodeMap : Obligations.OpcodeMap := by
  unfold Obligations.OpcodeMap
  exact ⟨exists_decode_ok_iff, rfl, rfl, rfl, rfl, rfl, rfl, rfl, rfl⟩

/-- Settles O6: an illegal word decodes to none of the commands, so the CMD write only raises ILLEGAL_COMMAND. -/
theorem illegalWordRaisesIllegalCommand : Obligations.IllegalWordRaisesIllegalCommand := by
  unfold Obligations.IllegalWordRaisesIllegalCommand
  intro s w rest hs hillegal
  obtain ⟨e, he⟩ := exists_decode_error hillegal
  rw [step_write_cmd hs, issueCommand_of_error he]
  rfl

end Sys2Proof.Machine
end


section
/-!
PROOFS. The buffer after a correction, and the streams of the format (spec 30_encoding.md R80 to R85; 43_encoder.md R173).
`correct` is the shortened buffer with the marker put in, then the record, then the bit 0: `correct_eq` names the first part
`markWindow`, and each fact about a position of the corrected buffer comes from the part it lies in.
-/

namespace Sys2Proof.Machine

/-! ## Numbers as bit sequences -/

@[simp] theorem toBits_length (v w : Nat) : (toBits v w).length = w := by
  simp [toBits]

theorem bitAt_toBits {v w t : Nat} (h : t < w) : bitAt (toBits v w) t = v.testBit t := by
  simp [bitAt, toBits, List.getD_eq_getElem?_getD, h]

theorem toBits_succ (v w : Nat) : toBits v (w + 1) = v.testBit 0 :: toBits (v / 2) w := by
  simp [toBits, List.range_succ_eq_map, Function.comp_def, Nat.testBit_succ]

/-- Reading `w` bits of a number back gives its remainder: the bits above were dropped (R102). -/
theorem fromBits_toBits (v w : Nat) : fromBits (toBits v w) = v % 2 ^ w := by
  induction w generalizing v with
  | zero => simp [toBits, fromBits, Nat.mod_one]
  | succ w ih =>
    have hbit : (v.testBit 0).toNat = v % 2 := by rw [Nat.toNat_testBit]; simp
    rw [toBits_succ, fromBits, ih, hbit, Nat.pow_succ', Nat.mod_mul]

/-! ## Slices -/

/-- A slice that begins where the first part ends is one of the second part. -/
theorem slice_append_of_length_eq {s t : Bits} {a : Nat} (ha : s.length = a) (len : Nat) :
    slice (s ++ t) a len = t.take len := by
  subst ha
  simp [slice]

/-- Two sequences with the same bits in a range have the same slice there. -/
theorem slice_congr {s t : Bits} {a len : Nat} (hs : a + len ≤ s.length) (ht : a + len ≤ t.length)
    (h : ∀ x, a ≤ x → x < a + len → bitAt s x = bitAt t x) : slice s a len = slice t a len := by
  have hslen := slice_length_of_fits hs
  refine bits_ext (hslen.trans (slice_length_of_fits ht).symm) fun x hx => ?_
  rw [hslen] at hx
  rw [bitAt_slice hx, bitAt_slice hx]
  exact h (a + x) (by omega) (by omega)

/-! ## The marker and the zeros after it -/

theorem bitAt_set_false_self (s : Bits) (i : Nat) : bitAt (s.set i false) i = false := by
  obtain hi | hi := lt_or_ge i s.length
  · exact bitAt_set_self false hi
  · exact bitAt_of_length_le (by simpa using hi)

/-- The loop of R173 (b) that writes zeros from position `a` on. -/
def zeroRange (a count : Nat) (s : Bits) : Bits := forFrom (fun j b => b.set j false) a count s

theorem zeroRange_succ (a count : Nat) (s : Bits) :
    zeroRange a (count + 1) s = zeroRange (a + 1) count (s.set a false) := rfl

theorem zeroRange_length (a count : Nat) (s : Bits) : (zeroRange a count s).length = s.length := by
  induction count generalizing a s with
  | zero => rfl
  | succ count ih => rw [zeroRange_succ, ih, List.length_set]

theorem bitAt_zeroRange (a count x : Nat) (s : Bits) :
    bitAt (zeroRange a count s) x = if a ≤ x ∧ x < a + count then false else bitAt s x := by
  induction count generalizing a s with
  | zero => rw [if_neg (by omega)]; rfl
  | succ count ih =>
    rw [zeroRange_succ, ih]
    by_cases hx : a = x
    · subst hx
      rw [if_neg (by omega), if_pos (by omega), bitAt_set_false_self]
    · rw [bitAt_set_ne false hx]
      exact if_congr (by omega) rfl rfl

/-- Steps (a) and (b) of R173: the buffer without the window's tail, with the marker and the zeros after it. -/
def markWindow (l p : Nat) (buf : Bits) (i q : Nat) : Bits :=
  zeroRange (i + q + 1) (p - (q + 1)) ((deleteBits buf (i + p) (l - p)).set (i + q) true)

theorem correct_eq (n l p : Nat) (buf : Bits) (i q : Nat) :
    correct n l p buf i q = markWindow l p buf i q ++ (toBits i (clog2 n) ++ [false]) := rfl

/-- The window's first `p` bits after step (b): the first `q` of them, the marker 1, zeros. -/
theorem bitAt_markWindow {l p i q x : Nat} {buf : Bits} (hfits : i + p + (l - p) ≤ buf.length) (hqp : q < p)
    (hx : x < i + p) :
    bitAt (markWindow l p buf i q) x = if x < i + q then bitAt buf x else decide (x = i + q) := by
  have hkept := deleteBits_length hfits
  rw [markWindow, bitAt_zeroRange]
  obtain hlt | rfl | hgt := lt_trichotomy x (i + q)
  · rw [if_neg (by omega), bitAt_set_ne true (by omega), bitAt_deleteBits_left hx (by omega), if_pos hlt]
  · rw [if_neg (by omega), bitAt_set_self true (by omega), if_neg (by omega), decide_eq_true rfl]
  · rw [if_pos (by omega), if_neg (by omega), decide_eq_false (by omega)]

/-! ## A correction on a buffer of n + 1 bits -/

section Correction

variable {nmax n l p i q : Nat} {buf : Bits}

/-- A window at a legal offset lies in the buffer, its first `p` bits and the rest taken apart. -/
theorem window_fits (hv : ValidParams nmax n l p) (hlen : buf.length = n + 1) (hi : i ≤ n + 1 - l) :
    i + p + (l - p) ≤ buf.length := by
  omega

/-- A legal offset fits the `clog2 n` bits of the record. -/
theorem offset_lt_two_pow_clog2 (hv : ValidParams nmax n l p) (hi : i ≤ n + 1 - l) : i < 2 ^ clog2 n := by
  have hn := le_two_pow_clog2 n
  omega

/-- The record begins where the corrected window and the bits beside it end. -/
theorem markWindow_length (hv : ValidParams nmax n l p) (hlen : buf.length = n + 1) (hi : i ≤ n + 1 - l) :
    (markWindow l p buf i q).length = n - clog2 n := by
  rw [markWindow, zeroRange_length, List.length_set, deleteBits_length (window_fits hv hlen hi)]
  omega

theorem correct_length (hv : ValidParams nmax n l p) (hlen : buf.length = n + 1) (hi : i ≤ n + 1 - l) :
    (correct n l p buf i q).length = n + 1 := by
  simp only [correct_eq, List.length_append, markWindow_length hv hlen hi, toBits_length, List.length_singleton]
  omega

/-- R83: the record stands at the positions `n - clog2 n` to `n - 1`. -/
theorem slice_correct_record (hv : ValidParams nmax n l p) (hlen : buf.length = n + 1) (hi : i ≤ n + 1 - l) :
    slice (correct n l p buf i q) (n - clog2 n) (clog2 n) = toBits i (clog2 n) := by
  rw [correct_eq, slice_append_of_length_eq (markWindow_length hv hlen hi), List.take_left' (toBits_length _ _)]

/-- R82, R83: the last bit after a correction is 0. -/
theorem bitAt_correct_last (hv : ValidParams nmax n l p) (hlen : buf.length = n + 1) (hi : i ≤ n + 1 - l) :
    bitAt (correct n l p buf i q) n = false := by
  have hsplit : n = (markWindow l p buf i q ++ toBits i (clog2 n)).length := by
    rw [List.length_append, markWindow_length hv hlen hi, toBits_length]
    omega
  rw [correct_eq, ← List.append_assoc, bitAt_append_right hsplit.ge, ← hsplit, Nat.sub_self]
  rfl

/-- R85: the window's first `p` bits after a correction. -/
theorem bitAt_correct_window {x : Nat} (hv : ValidParams nmax n l p) (hlen : buf.length = n + 1) (hi : i ≤ n + 1 - l)
    (hqp : q < p) (hx : x < i + p) :
    bitAt (correct n l p buf i q) x = if x < i + q then bitAt buf x else decide (x = i + q) := by
  have hmark := markWindow_length (q := q) hv hlen hi
  rw [correct_eq, bitAt_append_left (by omega), bitAt_markWindow (window_fits hv hlen hi) hqp hx]

end Correction

/-! ## The backward scan -/

/-- The scan answers the last 1 in its range (R214). -/
theorem markerScan_eq_some {buf : Bits} {index q t : Nat} (hq : 1 ≤ q) (hqt : q ≤ t)
    (hone : bitAt buf (index + q) = true) (hzero : ∀ x, q < x → x ≤ t → bitAt buf (index + x) = false) :
    markerScan buf index t = some q := by
  induction t with
  | zero => omega
  | succ t ih =>
    unfold markerScan
    obtain rfl | hlt := hqt.eq_or_lt
    · rw [if_pos hone]
    · rw [hzero (t + 1) hlt le_rfl, if_neg Bool.false_ne_true]
      exact ih (by omega) fun x hx hxt => hzero x hx (by omega)

/-! ## The history of corrections -/

theorem recordRemains_iff {buf : Bits} {n : Nat} (hlen : buf.length = n + 1) :
    recordRemains buf = true ↔ bitAt buf n = false := by
  simp [recordRemains, List.getLast?_eq_getElem?, hlen, bitAt, List.getD_eq_getElem?_getD]

/-- R80, R82: after `j` corrections the stream has `n + 1` bits, and the last is 1 exactly for `j = 0`. -/
theorem EncodedStream.length_and_last {nmax n l p j : Nat} {payload S : Bits} (hv : ValidParams nmax n l p)
    (hpayload : payload.length = n) (hS : EncodedStream n l p payload j S) :
    S.length = n + 1 ∧ bitAt S n = decide (j = 0) := by
  induction hS with
  | start =>
    refine ⟨by simp [hpayload], ?_⟩
    rw [bitAt_append_right hpayload.le, hpayload, Nat.sub_self]
    rfl
  | next j i q S _ hoffset _ _ ih =>
    obtain ⟨hlen, _⟩ := ih
    exact ⟨correct_length hv hlen hoffset, bitAt_correct_last hv hlen hoffset⟩

/-! ## The statements -/

/-- Settles O43: the record is the slice after `markWindow` and reads back because the offset fits it; the marker and
the zeros after it are `bitAt_correct_window`, which is also what the scan needs to stop at the marker. -/
theorem recordAndMarkerLayout : Obligations.RecordAndMarkerLayout := by
  unfold Obligations.RecordAndMarkerLayout
  intro nmax n l p i q buf hv hlen hi hq hqp
  have hrecord := slice_correct_record (q := q) hv hlen hi
  have hwindow : ∀ x, x < i + p →
      bitAt (correct n l p buf i q) x = if x < i + q then bitAt buf x else decide (x = i + q) :=
    fun _ => bitAt_correct_window hv hlen hi hqp
  have hone : bitAt (correct n l p buf i q) (i + q) = true := by
    rw [hwindow _ (by omega), if_neg (by omega), decide_eq_true rfl]
  have hzero : ∀ x, i + q < x → x < i + p → bitAt (correct n l p buf i q) x = false := fun x hlt hx => by
    rw [hwindow x hx, if_neg (by omega), decide_eq_false (by omega)]
  refine ⟨hrecord, fun t ht => ?bits, bitAt_correct_last hv hlen hi, ?readBack, ?firstBitsKept, hone,
    fun x hx hxp => hzero x (by omega) (by omega), ?scan⟩
  case bits =>
    rw [← bitAt_slice ht, hrecord, bitAt_toBits ht, Nat.testBit_eq_decide_div_mod_eq, decide_eq_true_iff]
  case readBack =>
    rw [hrecord, fromBits_toBits, Nat.mod_eq_of_lt (offset_lt_two_pow_clog2 hv hi)]
  case firstBitsKept =>
    have hcorrect := correct_length (q := q) hv hlen hi
    refine slice_congr (by omega) (by omega) fun x _ hx => ?_
    rw [hwindow x (by omega), if_pos hx]
  case scan =>
    exact markerScan_eq_some hq (by omega) hone fun x hx hxp => hzero (i + x) (by omega) (by omega)

/-- Settles O44: the length and the last bit by induction on the history, and the decoder's test is the last bit's. -/
theorem streamLengthAndLastBit : Obligations.StreamLengthAndLastBit := by
  unfold Obligations.StreamLengthAndLastBit
  intro nmax n l p payload hv hpayload
  refine ⟨fun S hS => ?start, fun j S hS => ?history⟩
  case start =>
    cases hS
    rfl
  case history =>
    obtain ⟨hlen, hlast⟩ := hS.length_and_last hv hpayload
    have hlast_zero : bitAt S n = false ↔ 1 ≤ j := by
      rw [hlast, decide_eq_false_iff_not]
      omega
    exact ⟨hlen, fun hj => hlast.trans (decide_eq_true hj), hlast_zero.mpr, (recordRemains_iff hlen).trans hlast_zero⟩

end Sys2Proof.Machine
end


section
/-!
PROOFS. The BitVector utilities and their commands TOBITS and FROMBITS (spec 40_bitvector.md R100 to R104). `fromBits`
is the weighted sum of its bits and `toBits` its inverse at a fixed length; what the commands answer is the model's own
`tobitsAt_next_iff` and `execFrombits_next_iff`, read from right to left.
-/

namespace Sys2Proof.Machine

/-! ## Bit sequences as numbers -/

theorem bitAt_cons_zero (x : Bool) (rest : Bits) : bitAt (x :: rest) 0 = x := rfl

theorem bitAt_cons_succ (x : Bool) (rest : Bits) (j : Nat) : bitAt (x :: rest) (j + 1) = bitAt rest j := rfl

/-- R101: position `j` weighs `2 ^ j`. -/
theorem fromBits_eq_sum (b : Bits) :
    fromBits b = ∑ j ∈ Finset.range b.length, (bitAt b j).toNat * 2 ^ j := by
  induction b with
  | nil => rfl
  | cons x rest ih =>
    have hdouble : ∑ j ∈ Finset.range rest.length, (bitAt rest j).toNat * 2 ^ (j + 1) = 2 * fromBits rest := by
      simp only [ih, Finset.mul_sum, pow_succ', mul_left_comm]
    simp only [fromBits, List.length_cons, Finset.sum_range_succ', bitAt_cons_zero, bitAt_cons_succ, hdouble]
    omega

theorem fromBits_lt_two_pow (b : Bits) : fromBits b < 2 ^ b.length := by
  induction b with
  | nil => exact one_pos
  | cons x rest ih =>
    have hx := x.toNat_lt
    rw [fromBits, List.length_cons, pow_succ']
    omega

theorem testBit_zero_fromBits_cons (x : Bool) (rest : Bits) : (fromBits (x :: rest)).testBit 0 = x := by
  cases x <;> simp [fromBits, Nat.add_mod]

theorem fromBits_cons_div_two (x : Bool) (rest : Bits) : fromBits (x :: rest) / 2 = fromBits rest := by
  have hx := x.toNat_lt
  rw [fromBits]
  omega

/-- R102: writing a sequence's number at the sequence's length gives the sequence back. -/
theorem toBits_fromBits (b : Bits) : toBits (fromBits b) b.length = b := by
  induction b with
  | nil => rfl
  | cons x rest ih =>
    rw [List.length_cons, toBits_succ, testBit_zero_fromBits_cons, fromBits_cons_div_two, ih]

/-! ## The window as a number -/

section Window

variable {a w : Word} {b : Bits}

theorem win_length (hfit : WindowFits a w b) : (win a w b).length = w.toNat :=
  slice_length_of_fits hfit

/-- R75, R101: bit `j` of the window is BUF's bit `A + j`. -/
theorem fromBits_win_eq_sum (hfit : WindowFits a w b) :
    fromBits (win a w b) = ∑ j ∈ Finset.range w.toNat, (bitAt b (a.toNat + j)).toNat * 2 ^ j := by
  rw [fromBits_eq_sum, win_length hfit]
  refine Finset.sum_congr rfl fun j hj => ?_
  rw [win, bitAt_slice (Finset.mem_range.mp hj)]

/-- A window of at most 32 bits fits RES. -/
theorem fromBits_win_lt (hfit : WindowFits a w b) (hw : w.toNat ≤ 32) : fromBits (win a w b) < 2 ^ 32 :=
  calc fromBits (win a w b) < 2 ^ (win a w b).length := fromBits_lt_two_pow _
    _ = 2 ^ w.toNat := by rw [win_length hfit]
    _ ≤ 2 ^ 32 := Nat.pow_le_pow_right two_pos hw

end Window

/-- R104 (R73 step 1): FROMBITS reads BUF, so it stops while BUF is ⊥. -/
theorem execFrombits_of_none {s : State} (hb : s.buf = none) :
    execFrombits s = .fault (.commandOnPoisonedBuf .frombits) := by
  rw [execFrombits, withWindow_of_none hb]

/-! ## The statements -/

/-- Settles O36: the inverse laws `fromBits_toBits` and `toBits_fromBits`, and the source's examples by evaluation. -/
theorem bitVectorRoundTrip : Obligations.BitVectorRoundTrip := by
  unfold Obligations.BitVectorRoundTrip
  refine ⟨fun v w hv => ?_, fromBits_toBits, toBits_fromBits, rfl, rfl⟩
  rw [fromBits_toBits, Nat.mod_eq_of_lt hv]

/-- Settles O16: BUF becomes `toBits` of A at width W, whose bits are `bitAt_toBits` and whose length is W. -/
theorem tobitsRule : Obligations.TobitsRule := by
  unfold Obligations.TobitsRule
  intro s
  refine ⟨fun hw => ⟨toBits s.a.toNat s.w.toNat, ?next, toBits_length _ _, fun j hj => ?bits, ?bufLen⟩,
    fun hw => ?tooWide⟩
  case next => exact (tobitsAt_next_iff _ _ _).mpr (.inl ⟨hw, rfl⟩)
  case bits => rw [bitAt_toBits hj, Nat.testBit_eq_decide_div_mod_eq, decide_eq_true_iff]
  case bufLen => rw [readReg_bufLen_of_some rfl, toBits_length, zext_toNat]
  case tooWide => exact (tobitsAt_next_iff _ _ _).mpr (.inr ⟨hw.not_ge, rfl⟩)

/-- Settles O17: RES becomes the window's number, which is the weighted sum and fits 32 bits; a window that fails either
check raises PRECONDITION, and poisoned BUF stops the command before both. -/
theorem frombitsRule : Obligations.FrombitsRule := by
  unfold Obligations.FrombitsRule
  intro s
  refine ⟨fun b hb hfit hw => ⟨zext (fromBits (win s.a s.w b)), ?next, ?value⟩, fun b hb hfails => ?check,
    fun hb => ⟨.commandOnPoisonedBuf .frombits, ?poison⟩⟩
  case next => exact (execFrombits_next_iff _ _).mpr ⟨b, hb, .inl ⟨hfit, hw, rfl⟩⟩
  case value => rw [toNat_zext_of_lt (fromBits_win_lt hfit hw), fromBits_win_eq_sum hfit]
  case check =>
    have hchecks := hfails.imp Nat.not_le_of_lt Nat.not_le_of_lt
    exact (execFrombits_next_iff _ _).mpr ⟨b, hb, .inr ⟨hchecks, rfl⟩⟩
  case poison => exact execFrombits_of_none hb

end Sys2Proof.Machine
end


section
/-!
PROOFS. The PeriodAnalyzer and its commands ZFUNC, PERIODS and MINPERIOD (spec 41_period_analyzer.md R121 to R130). The
facts go from the Z values to the least period: `commonPrefix` counts the lengths up to which two sequences agree, so
`zValue` is R121's largest match; a period `q` is a match of length `m - q` at `q`, so R125's test on the Z values lists
the periods of R124 (`mem_computePeriods_iff`); and the least of that list is the minimal period of R127.
-/

namespace Sys2Proof.Machine

/-! ## The Z values -/

/-- The lengths `commonPrefix` reaches are those up to which both sequences go and agree. -/
theorem le_commonPrefix_iff {xs ys : Bits} {t : Nat} :
    t ≤ commonPrefix xs ys ↔ t ≤ xs.length ∧ t ≤ ys.length ∧ xs.take t = ys.take t := by
  induction xs generalizing ys t with
  | nil => simp +contextual [commonPrefix]
  | cons x xs ih =>
    cases ys with
    | nil => simp +contextual [commonPrefix]
    | cons y ys =>
      cases t with
      | zero => simp
      | succ t =>
        by_cases hxy : x = y
        · simp [commonPrefix, hxy, ih]
        · simp [commonPrefix, hxy]

/-- The matches at a position are the lengths up to its Z value (R121). -/
theorem matchesAt_iff_le_zValue {s : Bits} {i t : Nat} (hi : i ≤ s.length) : MatchesAt s i t ↔ t ≤ zValue s i := by
  rw [zValue, le_commonPrefix_iff, List.length_drop, MatchesAt, slice, slice, List.drop_zero, ← and_assoc]
  refine and_congr_left fun _ => ?_
  omega

/-- The model's Z value is R121's: the largest match. -/
theorem isZValue_zValue {s : Bits} {i : Nat} (hi : i ≤ s.length) : IsZValue s i (zValue s i) :=
  ⟨(matchesAt_iff_le_zValue hi).mpr le_rfl, fun _ => (matchesAt_iff_le_zValue hi).mp⟩

@[simp] theorem computeZ_length (s : Bits) : (computeZ s).length = s.length := by
  simp [computeZ]

theorem getElem?_computeZ_eq_some_iff {s : Bits} {i t : Nat} :
    (computeZ s)[i]? = some t ↔ i < s.length ∧ t = zValue s i := by
  rw [List.getElem?_eq_some_iff]
  simp [computeZ, eq_comm]

theorem computeZ_getD {s : Bits} {i : Nat} (hi : i < s.length) : (computeZ s).getD i 0 = zValue s i := by
  rw [List.getD_eq_getElem?_getD, getElem?_computeZ_eq_some_iff.mpr ⟨hi, rfl⟩, Option.getD_some]

/-! ## Periods -/

/-- A match, bit by bit. -/
theorem matchesAt_iff_forall_bitAt {s : Bits} {i t : Nat} :
    MatchesAt s i t ↔ i + t ≤ s.length ∧ ∀ j, j < t → bitAt s j = bitAt s (i + j) := by
  refine and_congr_right fun hfit => ⟨fun heq j hj => ?_, fun hbits => ?_⟩
  · rw [← bitAt_slice hj, ← heq, bitAt_slice hj, Nat.zero_add]
  · have hlen : (slice s 0 t).length = t := slice_length_of_fits (by omega)
    refine bits_ext (hlen.trans (slice_length_of_fits hfit).symm) fun j hj => ?_
    rw [hlen] at hj
    rw [bitAt_slice hj, bitAt_slice hj, Nat.zero_add, hbits j hj]

/-- A period `q` is a match at `q` that reaches the sequence's end (R124). -/
theorem isPeriod_iff_matchesAt {s : Bits} {q : Nat} (hq : 1 ≤ q) (hle : q ≤ s.length) :
    IsPeriod s q ↔ MatchesAt s q (s.length - q) := by
  simp only [IsPeriod, matchesAt_iff_forall_bitAt, Nat.add_comm q, hq, Nat.sub_add_cancel hle, le_refl, true_and]

/-- The trivial period (R126): a shift by the whole length compares no two bits. -/
theorem isPeriod_length {s : Bits} (hs : 1 ≤ s.length) : IsPeriod s s.length :=
  ⟨hs, fun i hi => by omega⟩

/-- R125's test on the Z value finds the periods. -/
theorem isPeriod_iff_add_zValue {s : Bits} {q : Nat} (hq : 1 ≤ q) (hle : q ≤ s.length) :
    IsPeriod s q ↔ q + zValue s q = s.length := by
  have hfits : q + zValue s q ≤ s.length := ((matchesAt_iff_le_zValue hle).mpr le_rfl).1
  rw [isPeriod_iff_matchesAt hq hle, matchesAt_iff_le_zValue hle]
  omega

/-- R125 lists the periods of R124 that are at most the length. -/
theorem mem_computePeriods_iff {s : Bits} {q : Nat} : q ∈ computePeriods s ↔ q ≤ s.length ∧ IsPeriod s q := by
  have hrange : q ∈ (List.range s.length).map (· + 1) ↔ 1 ≤ q ∧ q ≤ s.length := by
    simp only [List.mem_map, List.mem_range]
    exact ⟨by rintro ⟨r, hr, rfl⟩; omega, fun ⟨hq, hle⟩ => ⟨q - 1, by omega, by omega⟩⟩
  simp only [computePeriods, List.mem_filter, hrange, Bool.or_eq_true, beq_iff_eq]
  constructor
  · rintro ⟨⟨hq, hle⟩, htest⟩
    refine ⟨hle, ?_⟩
    obtain rfl | hlt := hle.eq_or_lt
    · exact isPeriod_length hq
    · rw [computeZ_getD hlt] at htest
      exact (isPeriod_iff_add_zValue hq hle).mpr (htest.resolve_left hlt.ne)
  · rintro ⟨hle, hperiod⟩
    refine ⟨⟨hperiod.1, hle⟩, hle.eq_or_lt.imp_right fun hlt => ?_⟩
    rw [computeZ_getD hlt]
    exact (isPeriod_iff_add_zValue hperiod.1 hle).mp hperiod

/-- Two shifts by periods, one after the other, are a shift by a period. -/
theorem IsPeriod.add {s : Bits} {q r : Nat} (hq : IsPeriod s q) (hr : IsPeriod s r) : IsPeriod s (q + r) := by
  obtain ⟨hq_pos, hq_bits⟩ := hq
  obtain ⟨_, hr_bits⟩ := hr
  refine ⟨by omega, fun i hi => ?_⟩
  calc bitAt s i = bitAt s (i + q) := hq_bits i (by omega)
    _ = bitAt s (i + q + r) := hr_bits (i + q) (by omega)
    _ = bitAt s (i + (q + r)) := by rw [Nat.add_assoc]

theorem IsPeriod.mul {s : Bits} {q c : Nat} (hq : IsPeriod s q) (hc : 1 ≤ c) : IsPeriod s (c * q) := by
  induction c, hc using Nat.le_induction with
  | base => rwa [Nat.one_mul]
  | succ c _ ih =>
    rw [Nat.succ_mul]
    exact ih.add hq

/-! ## The minimal period and the period set -/

/-- R127: the answer is the least of all periods, those beyond the length included. -/
theorem computeMinPeriod_eq_some_iff {s : Bits} {q : Nat} :
    computeMinPeriod s = some q ↔ q ≤ s.length ∧ IsPeriod s q ∧ ∀ r, IsPeriod s r → q ≤ r := by
  rw [computeMinPeriod, List.min?_eq_some_iff, mem_computePeriods_iff, and_assoc]
  refine and_congr_right fun hle => and_congr_right fun _ => ⟨fun hleast r hr => ?_, fun hleast r hr => ?_⟩
  · obtain hrle | hlong := le_total r s.length
    · exact hleast r (mem_computePeriods_iff.mpr ⟨hrle, hr⟩)
    · exact hle.trans hlong
  · exact hleast r (mem_computePeriods_iff.mp hr).2

/-- A non-empty sequence has a minimal period, because its length is one of its periods (R126). -/
theorem exists_computeMinPeriod {s : Bits} (hs : 1 ≤ s.length) : ∃ q, computeMinPeriod s = some q := by
  have hmem : s.length ∈ computePeriods s := mem_computePeriods_iff.mpr ⟨le_rfl, isPeriod_length hs⟩
  exact Option.isSome_iff_exists.mp (List.isSome_min?_of_mem hmem)

theorem periodSet_length (s : Bits) : (periodSet s).length = s.length + 1 := by
  simp [periodSet]

/-- The bits of PSET are those of the definition of a period (R37, R129). -/
theorem bitAt_periodSet_iff {s : Bits} {q : Nat} (hq : q ≤ s.length) :
    bitAt (periodSet s) q = true ↔ IsPeriod s q := by
  have hbit : bitAt (periodSet s) q = (computePeriods s).contains q := by
    simp [bitAt, periodSet, List.getD_eq_getElem?_getD, Nat.lt_succ_of_le hq]
  rw [hbit, List.contains_iff_mem, mem_computePeriods_iff, and_iff_right hq]

/-! ## Poisoned BUF -/

/-- R32: every command except TOBITS reads BUF, and stops while BUF is ⊥. -/
theorem exec_of_buf_none {i : Instr} {s : State} (hi : i ≠ .tobits) (hb : s.buf = none) :
    exec i s = .fault (.commandOnPoisonedBuf i) := by
  cases i with
  | tobits => exact absurd rfl hi
  | frombits => exact execFrombits_of_none hb
  | zfunc => rw [exec, execZfunc, withWindow_of_none hb]
  | periods => rw [exec, execPeriods, withWindow_of_none hb]
  | minperiod => rw [exec, execMinperiod, withWindow_of_none hb]
  | scan => exact withBuf_of_none hb _
  | encode => exact withBuf_of_none hb _
  | decode => exact withBuf_of_none hb _

/-! ## The statements -/

/-- Settles O37: the trivial period is `isPeriod_length` and the multiples are `IsPeriod.mul`, carried to the list by
`mem_computePeriods_iff`; the empty sequence by evaluation. -/
theorem periodSetLaws : Obligations.PeriodSetLaws := by
  unfold Obligations.PeriodSetLaws
  refine ⟨fun s hs => ?trivialPeriod, rfl, fun s q c hq hc hle => ?multiple⟩
  case trivialPeriod => exact mem_computePeriods_iff.mpr ⟨le_rfl, isPeriod_length (List.length_pos_iff.mpr hs)⟩
  case multiple =>
    obtain ⟨_, hperiod⟩ := mem_computePeriods_iff.mp hq
    exact mem_computePeriods_iff.mpr ⟨hle, hperiod.mul hc⟩

/-- Settles O18: ZOUT becomes the window's `computeZ`, whose entries are the largest matches by `isZValue_zValue`. -/
theorem zfuncRule : Obligations.ZfuncRule := by
  unfold Obligations.ZfuncRule
  intro s
  refine ⟨fun b hb hfit => ⟨computeZ (win s.a s.w b), ?next, ?length, fun i t ht => ?entries⟩,
    fun b hb hlong => ?tooLong, fun hb => ⟨_, exec_of_buf_none (by decide) hb⟩⟩
  case next => exact (execZfunc_next_iff _ _).mpr ⟨b, hb, .inl ⟨hfit, rfl⟩⟩
  case length => rw [computeZ_length, win_length hfit]
  case entries =>
    obtain ⟨hi, rfl⟩ := getElem?_computeZ_eq_some_iff.mp ht
    exact isZValue_zValue hi.le
  case tooLong => exact (execZfunc_next_iff _ _).mpr ⟨b, hb, .inr ⟨hlong.not_ge, rfl⟩⟩

/-- Settles O19: PSET becomes the window's `periodSet`, which marks the periods by `bitAt_periodSet_iff`. -/
theorem periodsRule : Obligations.PeriodsRule := by
  unfold Obligations.PeriodsRule
  intro s
  refine ⟨fun b hb hfit => ⟨periodSet (win s.a s.w b), ?next, ?length, fun q hq => ?bits⟩,
    fun b hb hlong => ?tooLong, fun hb => ⟨_, exec_of_buf_none (by decide) hb⟩⟩
  case next => exact (execPeriods_next_iff _ _).mpr ⟨b, hb, .inl ⟨hfit, rfl⟩⟩
  case length => rw [periodSet_length, win_length hfit]
  case bits => exact bitAt_periodSet_iff (hq.trans (win_length hfit).ge)
  case tooLong => exact (execPeriods_next_iff _ _).mpr ⟨b, hb, .inr ⟨hlong.not_ge, rfl⟩⟩

/-- Settles O20: RES becomes the window's minimal period, which is at most W and so fits 32 bits; the empty window has
none, and its emptiness is seen only after its fit. -/
theorem minperiodRule : Obligations.MinperiodRule := by
  unfold Obligations.MinperiodRule
  intro s
  refine ⟨fun b hb hfit hw => ?result, fun b hb hfit hw => ?emptyWindow,
    fun b hb hlong => ?tooLong, fun hb => ⟨_, exec_of_buf_none (by decide) hb⟩⟩
  case result =>
    have hlen : (win s.a s.w b).length = s.w.toNat := win_length hfit
    obtain ⟨q, hq⟩ := exists_computeMinPeriod (hw.trans hlen.ge)
    obtain ⟨hle, hperiod, hleast⟩ := computeMinPeriod_eq_some_iff.mp hq
    have hqw : q ≤ s.w.toNat := hle.trans hlen.le
    have hvalue : (zext q).toNat = q := toNat_zext_of_lt (hqw.trans_lt s.w.isLt)
    refine ⟨zext q, (execMinperiod_next_iff _ _).mpr ⟨b, hb, .inl ⟨hfit, .inr ⟨q, hq, rfl⟩⟩⟩, ?_⟩
    rw [hvalue]
    exact ⟨hqw, hperiod, hleast⟩
  case emptyWindow =>
    have hnil : win s.a s.w b = [] := List.length_eq_zero_iff.mp ((win_length hfit).trans hw)
    have hnone : computeMinPeriod (win s.a s.w b) = none := congrArg computeMinPeriod hnil
    exact (execMinperiod_next_iff _ _).mpr ⟨b, hb, .inl ⟨hfit, .inl ⟨hnone, rfl⟩⟩⟩
  case tooLong => exact (execMinperiod_next_iff _ _).mpr ⟨b, hb, .inr ⟨hlong.not_ge, rfl⟩⟩

end Sys2Proof.Machine
end


section
/-!
PROOFS. The window scanner and its command SCAN (spec 42_window_scanner.md R150 to R155). A window that violates a
threshold is brought to the definition of a period (`violates_window_iff`), and the first violation to R154's least
offset; SCAN's answers are then the model's own `execScan_next_iff`, read from right to left.
-/

namespace Sys2Proof.Machine

/-! ## Violations -/

/-- R150, with the empty sequence: it has no minimal period, and violates no threshold. -/
theorem violates_iff {p : Nat} {s : Bits} : violates p s = true ↔ ∃ q, computeMinPeriod s = some q ∧ q < p := by
  unfold violates
  cases computeMinPeriod s with
  | none => simp
  | some q => simp

/-- For a threshold up to the length any period is a witness: the minimal period is no longer than it. -/
theorem violates_iff_exists_isPeriod {p : Nat} {s : Bits} (hp : p ≤ s.length) :
    violates p s = true ↔ ∃ q, q < p ∧ IsPeriod s q := by
  rw [violates_iff]
  constructor
  · rintro ⟨q, hmin, hqp⟩
    obtain ⟨_, hperiod, _⟩ := computeMinPeriod_eq_some_iff.mp hmin
    exact ⟨q, hqp, hperiod⟩
  · rintro ⟨q, hqp, hperiod⟩
    obtain ⟨m, hmin⟩ := exists_computeMinPeriod (s := s) (by omega)
    obtain ⟨_, _, hleast⟩ := computeMinPeriod_eq_some_iff.mp hmin
    exact ⟨m, hmin, (hleast q hperiod).trans_lt hqp⟩

/-! ## Windows -/

/-- R152: the offsets are those of the windows that lie in the buffer. -/
theorem mem_offsets_iff {i len l : Nat} : i ∈ offsets len l ↔ i + l ≤ len := by
  rw [offsets, List.mem_range]
  omega

section Threshold

variable {buf : Bits} {l p : Nat}

theorem violates_window_iff {i : Nat} (hp : p ≤ l) (hfit : i + l ≤ buf.length) :
    violates p (window buf i l) = true ↔ ∃ q, q < p ∧ IsPeriod (slice buf i l) q :=
  violates_iff_exists_isPeriod (hp.trans (slice_length_of_fits hfit).ge)

theorem not_violates_window_iff {i : Nat} (hp : p ≤ l) (hfit : i + l ≤ buf.length) :
    violates p (window buf i l) = false ↔ ∀ q, q < p → ¬ IsPeriod (slice buf i l) q := by
  rw [← Bool.not_eq_true, violates_window_iff hp hfit, not_exists]
  exact forall_congr' fun q => not_and

/-- R153 by the definition of a period. -/
theorem sat_iff_forall_not_isPeriod (hp : p ≤ l) :
    Sat buf l p ↔ ∀ i, i + l ≤ buf.length → ∀ q, q < p → ¬ IsPeriod (slice buf i l) q := by
  simp only [Sat, mem_offsets_iff]
  exact forall₂_congr fun i hfit => not_violates_window_iff hp hfit

/-! ## The first violation -/

/-- There is no first violation exactly when the constraint holds (R153, R154). -/
theorem firstViolation_eq_none_iff : firstViolation buf l p = none ↔ Sat buf l p := by
  simp only [firstViolation, List.find?_eq_none, Sat, Bool.not_eq_true]

/-- R154: the first violation is the least violating offset. -/
theorem firstViolation_eq_some_iff {f : Nat} :
    firstViolation buf l p = some f ↔
      f + l ≤ buf.length ∧ violates p (window buf f l) = true ∧ ∀ j, j < f → violates p (window buf j l) = false := by
  rw [firstViolation, offsets, List.find?_range_eq_some, ← offsets, mem_offsets_iff, and_left_comm]
  simp only [Bool.not_eq_true']

end Threshold

/-! ## The statements -/

/-- Settles O40: `violates_iff` is the first part; in the second a period below `p` is below the length, so the trivial
one is not among them. -/
theorem violationIsShortPeriod : Obligations.ViolationIsShortPeriod := by
  unfold Obligations.ViolationIsShortPeriod
  refine fun s p _ => ⟨violates_iff, fun hp => (violates_iff_exists_isPeriod hp).trans ?nontrivial⟩
  case nontrivial =>
    exact exists_congr fun q => and_congr_right fun hqp => (and_iff_right (hqp.trans_le hp)).symm

/-- Settles O21: no violation is `sat_iff_forall_not_isPeriod`, and the least offset with a period below P is the first
violation by `firstViolation_eq_some_iff`; a failed check raises PRECONDITION, and poisoned BUF stops the command before
the checks. -/
theorem scanRule : Obligations.ScanRule := by
  unfold Obligations.ScanRule
  intro s
  refine ⟨fun b hb hp hpl hlb hnone => ?noViolation, fun b f qf hb hp hpl hfit hqf hperiod hbefore => ?firstViolation,
    fun b hb hfails => ?check, fun hb => ⟨_, exec_of_buf_none (by decide) hb⟩⟩
  case noViolation =>
    have hfirst : firstViolation b s.l.toNat s.p.toNat = none :=
      firstViolation_eq_none_iff.mpr ((sat_iff_forall_not_isPeriod hpl).mpr fun i hi q => hnone i q hi)
    exact (execScan_next_iff _ _).mpr ⟨b, hb, .inl ⟨⟨hp, hpl, hlb⟩, .inl ⟨hfirst, rfl⟩⟩⟩
  case firstViolation =>
    have hlb : s.l.toNat ≤ b.length := le_of_add_le_right hfit
    have hviolates : violates s.p.toNat (window b f s.l.toNat) = true :=
      (violates_window_iff hpl hfit).mpr ⟨qf, hqf, hperiod⟩
    have hleast : ∀ j, j < f → violates s.p.toNat (window b j s.l.toNat) = false := fun j hj =>
      (not_violates_window_iff hpl (by omega)).mpr fun q => hbefore j q hj
    have hfirst : firstViolation b s.l.toNat s.p.toNat = some f :=
      firstViolation_eq_some_iff.mpr ⟨hfit, hviolates, hleast⟩
    exact (execScan_next_iff _ _).mpr ⟨b, hb, .inl ⟨⟨hp, hpl, hlb⟩, .inr ⟨f, hfirst, rfl⟩⟩⟩
  case check =>
    have hfailed : ¬ (1 ≤ s.p.toNat ∧ s.p.toNat ≤ s.l.toNat ∧ s.l.toNat ≤ b.length) := by omega
    exact (execScan_next_iff _ _).mpr ⟨b, hb, .inr ⟨hfailed, rfl⟩⟩

end Sys2Proof.Machine
end

section
/-!
PROOFS. The Encoder and its command ENCODE (spec 43_encoder.md R171 to R184). Everything about the pass loop goes through
its trace `EncodeReaches`: wherever the trace comes to with at most MAX_CORR(n) corrections, the loop's result is that of
going on from that point (`EncodeReaches.encodeLoop_eq`), and the trace comes to an end of the loop or to a correction too
many (`EncodeReaches.finishes_or_diverges`). So the two conditions are exactly the loop's two results, and facts about the
result are facts about the points of the trace, each by induction on the trace.
-/

namespace Sys2Proof.Machine

/-! ## Valid parameters -/

/-- R171: for `n <= 3` no `p >= 1` satisfies `l <= n`. -/
theorem four_le_of_validParams {nmax n l p : Nat} (hv : ValidParams nmax n l p) : 4 ≤ n := by
  have hpow : n ≤ 2 ^ (n - 2) := clog2_le_iff.mp (by omega)
  by_contra hlt
  obtain rfl | rfl : n = 2 ∨ n = 3 := by omega
  · exact absurd hpow (by decide)
  · exact absurd hpow (by decide)

theorem offsets_length (len l : Nat) : (offsets len l).length = len + 1 - l :=
  List.length_range

/-- With `p = 1` no window violates, because a period is at least 1 (R124). -/
theorem sat_one {buf : Bits} {l : Nat} (hl : 1 ≤ l) : Sat buf l 1 :=
  (sat_iff_forall_not_isPeriod hl).mpr fun _ _ _ hq hperiod => hq.not_ge hperiod.1

/-! ## The positions of a corrected buffer -/

section Correction

variable {nmax n l p i q : Nat} {buf : Bits}

/-- The record and the final 0 are the last `clog2 n + 1` bits (R173 (c)). -/
theorem slice_correct_tail (hv : ValidParams nmax n l p) (hlen : buf.length = n + 1) (hi : i ≤ n + 1 - l) :
    slice (correct n l p buf i q) (n - clog2 n) (clog2 n + 1) = toBits i (clog2 n) ++ [false] := by
  rw [correct_eq, slice_append_of_length_eq (markWindow_length hv hlen hi)]
  exact List.take_of_length_le (by simp)

/-- The bits after the window's first `p` move down over the deleted ones (R173 (a)). -/
theorem bitAt_correct_moved {x : Nat} (hv : ValidParams nmax n l p) (hlen : buf.length = n + 1) (hi : i ≤ n + 1 - l)
    (hqp : q < p) (hx : i + p ≤ x) (hxn : x < n - clog2 n) :
    bitAt (correct n l p buf i q) x = bitAt buf (x + (l - p)) := by
  have hmark := markWindow_length (q := q) hv hlen hi
  rw [correct_eq, bitAt_append_left (by omega), markWindow, bitAt_zeroRange, if_neg (by omega),
    bitAt_set_ne true (by omega), bitAt_deleteBits_right hx (by omega)]

end Correction

/-! ## The points of the trace -/

section Trace

variable {nmax n l p pass i c : Nat} {payload buf : Bits} {changed : Bool}

/-- The working buffer is always a stream of the format, with as many corrections as are counted (R80, R81). -/
theorem EncodeReaches.encodedStream (h : EncodeReaches n l p payload pass i c changed buf) :
    EncodedStream n l p payload c buf := by
  induction h with
  | start => exact .start
  | keep _ _ _ _ _ _ _ _ _ _ ih => exact ih
  | fix _ i c _ buf q _ hoffset hmin hviolation ih => exact .next c i q buf ih hoffset hmin hviolation
  | again _ _ _ _ ih => exact ih

theorem EncodeReaches.length_eq (hv : ValidParams nmax n l p) (hpayload : payload.length = n)
    (h : EncodeReaches n l p payload pass i c changed buf) : buf.length = n + 1 :=
  (h.encodedStream.length_and_last hv hpayload).1

/-- The scan of a pass stops at the end of its offsets. -/
theorem EncodeReaches.offset_le (hv : ValidParams nmax n l p)
    (h : EncodeReaches n l p payload pass i c changed buf) : i ≤ n + 2 - l := by
  cases h with
  | start => exact Nat.zero_le _
  | keep => omega
  | fix => omega
  | again => exact Nat.zero_le _

/-- Every pass before the current one applied a correction, and the current one too if it is marked so (R178). -/
theorem EncodeReaches.pass_bounds (h : EncodeReaches n l p payload pass i c changed buf) :
    1 ≤ pass ∧ pass ≤ c + 1 ∧ (changed = true → pass ≤ c) := by
  induction h with
  | start => exact ⟨le_rfl, le_rfl, Bool.noConfusion⟩
  | keep _ _ _ _ _ _ _ _ _ _ ih => exact ih
  | fix _ _ _ _ _ _ _ _ _ _ ih =>
    obtain ⟨hpos, hle, _⟩ := ih
    exact ⟨hpos, by omega, fun _ => hle⟩
  | again _ _ _ _ ih =>
    obtain ⟨_, _, hchanged⟩ := ih
    exact ⟨by omega, Nat.succ_le_succ (hchanged rfl), Bool.noConfusion⟩

/-- The trace passed the start of the current pass, with fewer corrections if this pass has applied one. -/
theorem EncodeReaches.pass_start (h : EncodeReaches n l p payload pass i c changed buf) :
    ∃ c₀ buf₀, EncodeReaches n l p payload pass 0 c₀ false buf₀ ∧ c₀ ≤ c ∧ (changed = true → c₀ < c) := by
  induction h with
  | start => exact ⟨_, _, .start, le_rfl, Bool.noConfusion⟩
  | keep _ _ _ _ _ _ _ _ _ _ ih => exact ih
  | fix _ _ _ _ _ _ _ _ _ _ ih =>
    obtain ⟨c₀, buf₀, hstart, hle, _⟩ := ih
    exact ⟨c₀, buf₀, hstart, by omega, fun _ => by omega⟩
  | again _ _ _ before => exact ⟨_, _, .again _ _ _ before, le_rfl, Bool.noConfusion⟩

/-- A pass after the first begins after one that applied a correction (R178). -/
theorem EncodeReaches.prev_pass (hpass : 1 ≤ pass) (h : EncodeReaches n l p payload (pass + 1) 0 c changed buf) :
    EncodeReaches n l p payload pass (n + 2 - l) c true buf := by
  cases h with
  | start => omega
  | again _ _ _ before => exact before

/-- While a pass has applied no correction, no window it has examined violates. -/
theorem EncodeReaches.no_violation_of_unchanged (h : EncodeReaches n l p payload pass i c changed buf)
    (hchanged : changed = false) : ∀ j, j < i → violates p (window buf j l) = false := by
  induction h with
  | start => exact fun j hj => absurd hj j.not_lt_zero
  | keep _ i _ _ buf q _ _ hmin hfine ih =>
    intro j hj
    obtain hlt | rfl := Nat.lt_succ_iff_lt_or_eq.mp hj
    · exact ih hchanged j hlt
    · simp [violates, hmin, hfine]
  | fix => exact Bool.noConfusion hchanged
  | again => exact fun j hj => absurd hj j.not_lt_zero

/-- R181: at the end of a pass without a correction the buffer satisfies the constraint. -/
theorem EncodeReaches.sat_of_end (hv : ValidParams nmax n l p) (hpayload : payload.length = n)
    (h : EncodeReaches n l p payload pass (n + 2 - l) c false buf) : Sat buf l p := by
  intro j hj
  rw [h.length_eq hv hpayload, mem_offsets_iff] at hj
  exact h.no_violation_of_unchanged rfl j (by omega)

/-- A window at an offset of the trace has a minimal period, because it is not empty (R183). -/
theorem EncodeReaches.exists_minPeriod (hv : ValidParams nmax n l p) (hpayload : payload.length = n)
    (h : EncodeReaches n l p payload pass i c changed buf) (hi : i ≤ n + 1 - l) :
    ∃ q, computeMinPeriod (window buf i l) = some q := by
  have hlen := h.length_eq hv hpayload
  have hwindow : (window buf i l).length = l := slice_length_of_fits (by omega)
  exact exists_computeMinPeriod (by omega)

/-- On a terminated payload that satisfies the constraint the first pass keeps every window (R182). -/
theorem EncodeReaches.of_sat (hv : ValidParams nmax n l p) (hpayload : payload.length = n)
    (hsat : Sat (payload ++ [true]) l p) (hi : i ≤ n + 2 - l) :
    EncodeReaches n l p payload 1 i 0 false (payload ++ [true]) := by
  induction i with
  | zero => exact .start
  | succ i ih =>
    have before := ih (by omega)
    obtain ⟨q, hmin⟩ := before.exists_minPeriod hv hpayload (by omega)
    have hkept : violates p (window (payload ++ [true]) i l) = false :=
      hsat i (by rw [before.length_eq hv hpayload, mem_offsets_iff]; omega)
    have hfine : p ≤ q := by simpa [violates, hmin] using hkept
    exact .keep 1 i 0 false _ q before (by omega) hmin hfine

end Trace

/-! ## The two ways the trace is left -/

/-- The trace ends, after a pass without a correction, at the variables `v`, with at most `mc` corrections (R178). -/
def EncodeFinishesAt (mc n l p : Nat) (payload : Bits) (v : EncodeVars) : Prop :=
  v.changed = false ∧ v.c ≤ mc ∧ EncodeReaches n l p payload v.pass (n + 2 - l) v.c false v.buf

/-- The trace comes to a violating window with `mc` corrections already applied, where the guard of R179 stops ENCODE. -/
def EncodeDiverges (mc n l p : Nat) (payload : Bits) : Prop :=
  ∃ pass i changed buf q, EncodeReaches n l p payload pass i mc changed buf ∧ i ≤ n + 1 - l ∧
    computeMinPeriod (window buf i l) = some q ∧ q < p

section Loop

variable {nmax mc n l p fuel i c pass : Nat} {payload buf : Bits} {changed : Bool} {v v' : EncodeVars}

/-- R184: from any of its points the trace goes on to its end or to a correction too many, because each round goes on in
the pass, or begins a pass that has not corrected yet, or uses up one of the `mc` corrections. -/
theorem EncodeReaches.finishes_or_diverges {pass i c : Nat} {changed : Bool} {buf : Bits}
    (hv : ValidParams nmax n l p) (hpayload : payload.length = n)
    (h : EncodeReaches n l p payload pass i c changed buf) (hc : c ≤ mc) :
    (∃ v, EncodeFinishesAt mc n l p payload v) ∨ EncodeDiverges mc n l p payload := by
  have hle := h.offset_le hv
  obtain rfl | hlt := hle.eq_or_lt
  · cases hchanged : changed with
    | false => exact .inl ⟨⟨buf, c, pass, false⟩, rfl, hc, hchanged ▸ h⟩
    | true => exact EncodeReaches.finishes_or_diverges hv hpayload (.again pass c buf (hchanged ▸ h)) hc
  · have hi : i ≤ n + 1 - l := by omega
    obtain ⟨q, hmin⟩ := h.exists_minPeriod hv hpayload hi
    obtain hfine | hviolation := le_or_gt p q
    · exact EncodeReaches.finishes_or_diverges hv hpayload (.keep pass i c changed buf q h hi hmin hfine) hc
    · obtain rfl | hroom := hc.eq_or_lt
      · exact .inr ⟨pass, i, changed, buf, q, h, hi, hmin, hviolation⟩
      · exact EncodeReaches.finishes_or_diverges hv hpayload (.fix pass i c changed buf q h hi hmin hviolation) hroom
termination_by (mc - c, changed.toNat, n + 2 - l - i)
decreasing_by
  · exact .right _ (.left _ _ (by simp [hchanged]))
  · exact .right _ (.right _ (by omega))
  · exact .left _ _ (by omega)

/-! ## The loop from a point of the trace -/

/-- What the pass loop answers from offset `i` of a pass on, with `fuel` passes left after this one. -/
def encodeResume (mc n l p fuel i : Nat) (v : EncodeVars) : Except ErrCode EncodeVars :=
  match encodeOffsets mc n l p (List.range' i (n + 2 - l - i)) v with
  | .error e => .error e
  | .ok v' => if v'.changed then encodeLoop mc n l p fuel v' else .ok v'

/-- A pass of the loop is `encodeResume` from its first offset (R176). -/
theorem encodeLoop_succ (mc n l p fuel : Nat) (v : EncodeVars) :
    encodeLoop mc n l p (fuel + 1) v = encodeResume mc n l p fuel 0 { v with pass := v.pass + 1, changed := false } := by
  have hoffsets : offsets (n + 1) l = List.range' 0 (n + 2 - l - 0) := List.range_eq_range'
  rw [encodeResume, ← hoffsets]
  rfl

/-- The offsets still to come at an offset that is no end of the pass. -/
theorem offsetsLeft_eq_cons (hv : ValidParams nmax n l p) (hi : i ≤ n + 1 - l) :
    List.range' i (n + 2 - l - i) = i :: List.range' (i + 1) (n + 2 - l - (i + 1)) := by
  have hleft : n + 2 - l - i = n + 2 - l - (i + 1) + 1 := by omega
  rw [hleft, List.range'_succ]

theorem encodeResume_of_ok (hv : ValidParams nmax n l p) (hi : i ≤ n + 1 - l)
    (h : encodeOffset mc n l p i v = .ok v') :
    encodeResume mc n l p fuel i v = encodeResume mc n l p fuel (i + 1) v' := by
  simp only [encodeResume, offsetsLeft_eq_cons hv hi, encodeOffsets, h]

theorem encodeResume_of_error {e : ErrCode} (hv : ValidParams nmax n l p) (hi : i ≤ n + 1 - l)
    (h : encodeOffset mc n l p i v = .error e) : encodeResume mc n l p fuel i v = .error e := by
  simp only [encodeResume, offsetsLeft_eq_cons hv hi, encodeOffsets, h]

/-- At the end of a pass the loop goes on exactly if the pass has applied a correction (R178). -/
theorem encodeResume_end (mc n l p fuel : Nat) (v : EncodeVars) :
    encodeResume mc n l p fuel (n + 2 - l) v = if v.changed then encodeLoop mc n l p fuel v else .ok v := by
  rw [encodeResume, Nat.sub_self]
  rfl

/-- The guard of R179. -/
theorem encodeOffset_of_spent {q : Nat} (hmin : computeMinPeriod (window v.buf i l) = some q) (hviolation : q < p)
    (hspent : v.c = mc) : encodeOffset mc n l p i v = .error .encodingDiverged := by
  simp [encodeOffset, hmin, hviolation, hspent]

/-- The loop passes every point of its trace within the bound: its result is that of going on from there. -/
theorem EncodeReaches.encodeLoop_eq (hv : ValidParams nmax n l p)
    (h : EncodeReaches n l p payload pass i c changed buf) (hc : c ≤ mc) (hfuel : pass ≤ fuel) :
    encodeLoop mc n l p fuel (encodeStart payload) =
      encodeResume mc n l p (fuel - pass) i ⟨buf, c, pass, changed⟩ := by
  induction h with
  | start =>
    obtain ⟨fuel, rfl⟩ := Nat.exists_eq_add_of_le' hfuel
    exact encodeLoop_succ mc n l p fuel _
  | keep pass i c changed buf q _ hi hmin hfine ih =>
    rw [ih hc hfuel]
    exact encodeResume_of_ok hv hi (encodeOffset_ok_iff.mpr ⟨q, hmin, .inr ⟨hfine.not_gt, rfl⟩⟩)
  | fix pass i c changed buf q _ hi hmin hviolation ih =>
    have hroom : c ≠ mc := by omega
    rw [ih (by omega) hfuel]
    exact encodeResume_of_ok hv hi (encodeOffset_ok_iff.mpr ⟨q, hmin, .inl ⟨hviolation, hroom, rfl⟩⟩)
  | again pass c buf _ ih =>
    have hleft : fuel - pass = fuel - (pass + 1) + 1 := by omega
    rw [ih hc (by omega), encodeResume_end, if_pos rfl, hleft]
    exact encodeLoop_succ mc n l p _ _

/-! ## The loop's two results -/

theorem EncodeFinishesAt.encodeLoop_eq (hv : ValidParams nmax n l p) (h : EncodeFinishesAt mc n l p payload v)
    (hfuel : mc + 1 ≤ fuel) : encodeLoop mc n l p fuel (encodeStart payload) = .ok v := by
  obtain ⟨buf, c, pass, changed⟩ := v
  obtain ⟨rfl, hc, hend⟩ := h
  obtain ⟨_, hpass, _⟩ := hend.pass_bounds
  rw [hend.encodeLoop_eq hv hc (hpass.trans ((Nat.succ_le_succ hc).trans hfuel)), encodeResume_end]
  rfl

theorem EncodeDiverges.encodeLoop_eq (hv : ValidParams nmax n l p) (h : EncodeDiverges mc n l p payload)
    (hfuel : mc + 1 ≤ fuel) : encodeLoop mc n l p fuel (encodeStart payload) = .error .encodingDiverged := by
  obtain ⟨pass, i, changed, buf, q, hreach, hi, hmin, hviolation⟩ := h
  obtain ⟨_, hpass, _⟩ := hreach.pass_bounds
  rw [hreach.encodeLoop_eq hv le_rfl (by omega)]
  exact encodeResume_of_error hv hi (encodeOffset_of_spent hmin hviolation rfl)

theorem encode_finishes_or_diverges (mc : Nat) (hv : ValidParams nmax n l p) (hpayload : payload.length = n) :
    (∃ v, EncodeFinishesAt mc n l p payload v) ∨ EncodeDiverges mc n l p payload :=
  EncodeReaches.start.finishes_or_diverges hv hpayload (Nat.zero_le mc)

theorem encodeCore_ok_iff (hv : ValidParams nmax n l p) (hpayload : payload.length = n) :
    encodeCore mc n l p payload = .ok v ↔ EncodeFinishesAt mc n l p payload v := by
  refine ⟨fun hok => ?_, fun h => h.encodeLoop_eq hv le_rfl⟩
  obtain ⟨w, hw⟩ | hdiv := encode_finishes_or_diverges mc hv hpayload
  · cases hok.symm.trans (hw.encodeLoop_eq hv le_rfl)
    exact hw
  · cases hok.symm.trans (hdiv.encodeLoop_eq hv le_rfl)

/-- ENCODING_DIVERGED is the loop's only error (R179), EMPTY_INPUT never (R183). -/
theorem encodeCore_error_iff {e : ErrCode} (hv : ValidParams nmax n l p) (hpayload : payload.length = n) :
    encodeCore mc n l p payload = .error e ↔ e = .encodingDiverged ∧ EncodeDiverges mc n l p payload := by
  constructor
  · intro herror
    obtain ⟨w, hw⟩ | hdiv := encode_finishes_or_diverges mc hv hpayload
    · cases herror.symm.trans (hw.encodeLoop_eq hv le_rfl)
    · cases herror.symm.trans (hdiv.encodeLoop_eq hv le_rfl)
      exact ⟨rfl, hdiv⟩
  · rintro ⟨rfl, hdiv⟩
    exact hdiv.encodeLoop_eq hv le_rfl

/-- R182: a terminated payload that satisfies the constraint is the loop's result as it is. -/
theorem encodeCore_of_sat (mc : Nat) (hv : ValidParams nmax n l p) (hpayload : payload.length = n)
    (hsat : Sat (payload ++ [true]) l p) :
    encodeCore mc n l p payload = .ok ⟨payload ++ [true], 0, 1, false⟩ :=
  (encodeCore_ok_iff hv hpayload).mpr ⟨rfl, Nat.zero_le mc, .of_sat hv hpayload hsat le_rfl⟩

end Loop

/-! ## The statements -/

/-- Settles O57: `encodeCore_ok_iff` and `encodeCore_error_iff` are the two clauses. -/
theorem encodeLoopFollowsTrace : Obligations.EncodeLoopFollowsTrace := by
  unfold Obligations.EncodeLoopFollowsTrace
  exact fun nmax n l p mc payload hv hpayload => ⟨fun v => encodeCore_ok_iff hv hpayload,
    (encodeCore_error_iff hv hpayload).trans (and_iff_right rfl)⟩

/-- Settles O47: the bounds on passes and corrections are those of the trace's end, and since both ways out of the trace
are met within `mc + 1` passes, more of them change nothing. -/
theorem encodeAlwaysEnds : Obligations.EncodeAlwaysEnds := by
  unfold Obligations.EncodeAlwaysEnds
  intro nmax n l p mc payload hv hpayload
  refine ⟨by omega, offsets_length _ _, fun pass c changed buf hpass hreach => ?eachPassCorrects, ?outcome,
    fun more => ?morePasses⟩
  case eachPassCorrects =>
    obtain ⟨c₀, buf₀, hstart, _, hless⟩ := (hreach.prev_pass hpass).pass_start
    exact ⟨c₀, buf₀, hstart, hless rfl⟩
  case outcome =>
    refine (encode_finishes_or_diverges mc hv hpayload).imp ?_ fun hdiv => hdiv.encodeLoop_eq hv le_rfl
    rintro ⟨v, hfinish⟩
    have ⟨_, hc, hend⟩ := hfinish
    obtain ⟨_, hpass, _⟩ := hend.pass_bounds
    exact ⟨v, hfinish.encodeLoop_eq hv le_rfl, hc, hpass, by omega⟩
  case morePasses =>
    obtain ⟨v, hfinish⟩ | hdiv := encode_finishes_or_diverges mc hv hpayload
    · exact (hfinish.encodeLoop_eq hv (by omega)).trans (hfinish.encodeLoop_eq hv le_rfl).symm
    · exact (hdiv.encodeLoop_eq hv (by omega)).trans (hdiv.encodeLoop_eq hv le_rfl).symm

/-- Settles O48: with no correction the trace's end is the stream after 0 corrections, and the end of a pass without one
satisfies the constraint; the other way round is `encodeCore_of_sat`. -/
theorem noCorrectionCase : Obligations.NoCorrectionCase := by
  unfold Obligations.NoCorrectionCase
  refine ⟨fun nmax n l p mc payload hv hpayload =>
    ⟨⟨?satOfNone, fun hsat => ?noneOfSat⟩, fun hsat => ?buffer⟩, by decide⟩
  case satOfNone =>
    rintro ⟨⟨buf, c, pass, changed⟩, hok, rfl⟩
    obtain ⟨_, _, hend⟩ := (encodeCore_ok_iff hv hpayload).mp hok
    have hsat := hend.sat_of_end hv hpayload
    have hstream := hend.encodedStream
    cases hstream
    exact hsat
  case noneOfSat => exact ⟨_, encodeCore_of_sat mc hv hpayload hsat, rfl⟩
  case buffer => exact ⟨_, encodeCore_of_sat mc hv hpayload hsat, rfl, rfl⟩

/-- Settles O41: arithmetic on `l = p + clog2 n + 1` and `n <= 2 ^ clog2 n`; with `p = 1` every buffer satisfies the
constraint, so it is the case of no correction. -/
theorem validParamsConsequences : Obligations.ValidParamsConsequences := by
  unfold Obligations.ValidParamsConsequences
  have hclog_four : clog2 4 = 2 := by decide
  have hclog_twenty : clog2 20 = 5 := by decide
  refine ⟨fun nmax n l p hv => ?consequences, fun nmax hnmax => by omega, fun nmax hnmax => by omega⟩
  have hpow := le_two_pow_clog2 n
  refine ⟨by omega, by omega, four_le_of_validParams hv, by omega, ?twoOffsets, fun i hmem => ?offset,
    fun hp mc payload hpayload => ?noCorrection⟩
  case twoOffsets =>
    rw [offsets_length]
    omega
  case offset =>
    rw [mem_offsets_iff] at hmem
    have hfits : i < 2 ^ clog2 n := by omega
    exact ⟨by omega, by omega, hfits, (fromBits_toBits _ _).trans (Nat.mod_eq_of_lt hfits)⟩
  case noCorrection =>
    subst hp
    exact ⟨_, encodeCore_of_sat mc hv hpayload (sat_one (by omega)), rfl, rfl⟩

/-- Settles O42: the four ranges of positions are `bitAt_correct_window` on both sides of the marker,
`bitAt_correct_moved` and `slice_correct_tail`. -/
theorem correctLengthAndFrame : Obligations.CorrectLengthAndFrame := by
  unfold Obligations.CorrectLengthAndFrame
  intro nmax n l p i q buf hv hlen hi _ hqp
  refine ⟨?shortened, correct_length hv hlen hi, fun x hx => ?kept, fun x hx hxp => ?written,
    slice_correct_tail hv hlen hi, fun x => bitAt_correct_moved hv hlen hi hqp⟩
  case shortened =>
    rw [deleteBits_length (window_fits hv hlen hi)]
    omega
  case kept => rw [bitAt_correct_window hv hlen hi hqp (by omega), if_pos hx]
  case written => rw [bitAt_correct_window hv hlen hi hqp hxp, if_neg hx.not_gt, decide_eq_true_iff]

/-- Settles O22: ENCODE's answers are the model's own `encodeAt_next_iff`, read from right to left; what they say of the
loop is `encodeCore_ok_iff` and `encodeCore_error_iff`. -/
theorem encodeRule : Obligations.EncodeRule := by
  unfold Obligations.EncodeRule
  intro P s
  refine ⟨fun b v hb hv hlen hok => ?result, fun b e hb hv hlen herror => ?error, fun b hb hparams => ?badParams,
    fun b hb hlen => ?badLength, fun hb => ⟨_, withBuf_of_none hb _⟩⟩
  case result =>
    obtain ⟨_, hc, hend⟩ := (encodeCore_ok_iff hv hlen).mp hok
    exact ⟨hend.length_eq hv hlen, hc, hend, (encodeAt_next_iff _ _ _).mpr ⟨b, hb, .inl ⟨hv, hlen, .inr ⟨v, hok, rfl⟩⟩⟩⟩
  case error =>
    obtain ⟨rfl, hdiv⟩ := (encodeCore_error_iff hv hlen).mp herror
    exact ⟨hdiv, (encodeAt_next_iff _ _ _).mpr ⟨b, hb, .inl ⟨hv, hlen, .inl ⟨_, herror, rfl⟩⟩⟩⟩
  case badParams => exact (encodeAt_next_iff _ _ _).mpr ⟨b, hb, .inr ⟨fun h => hparams h.1, rfl⟩⟩
  case badLength => exact (encodeAt_next_iff _ _ _).mpr ⟨b, hb, .inr ⟨fun h => hlen h.2, rfl⟩⟩

/-- An ENCODE that ends with ERR = 0 wrote the end of its loop. -/
theorem encodeAt_completed {P : Params} {s t : State} (h : encodeAt P s = .next t) (herr : statusErr t.status = 0#3) :
    ∃ b v, s.buf = some b ∧ ValidParams P.nmax s.n.toNat s.l.toNat s.p.toNat ∧ b.length = s.n.toNat ∧
      EncodeFinishesAt (P.maxCorr s.n.toNat) s.n.toNat s.l.toNat s.p.toNat b v ∧
      t = ((s.setBuf v.buf).setRes (zext v.c)).setStatus (statusWord false .noError) := by
  obtain ⟨b, hb, ⟨hv, hlen, ⟨e, herror, rfl⟩ | ⟨v, hok, rfl⟩⟩ | ⟨_, rfl⟩⟩ := (encodeAt_next_iff P s t).mp h
  · obtain ⟨rfl, _⟩ := (encodeCore_error_iff hv hlen).mp herror
    exact absurd herr (by simp [errBits])
  · exact ⟨b, v, hb, hv, hlen, (encodeCore_ok_iff hv hlen).mp hok, rfl⟩
  · exact absurd herr (by simp [errBits])

/-- SCAN of a buffer that satisfies the constraint ends with STATUS 0 (R155). -/
theorem execScan_of_sat {s : State} {b : Bits} (hb : s.buf = some b) (hp : 1 ≤ s.p.toNat) (hpl : s.p.toNat ≤ s.l.toNat)
    (hlb : s.l.toNat ≤ b.length) (hsat : Sat b s.l.toNat s.p.toNat) :
    execScan s = .next ((s.setRes (zext 0)).setStatus (statusWord false .noError)) :=
  (execScan_next_iff _ _).mpr ⟨b, hb, .inl ⟨⟨hp, hpl, hlb⟩, .inl ⟨firstViolation_eq_none_iff.mpr hsat, rfl⟩⟩⟩

/-- Settles O49: the output is the end of the trace, so it is a stream of the format and satisfies the constraint; the
count is below 2^31 and so RES holds it; ENCODE leaves P and L, so SCAN checks the same constraint. -/
theorem encodeOutputGuarantees : Obligations.EncodeOutputGuarantees := by
  unfold Obligations.EncodeOutputGuarantees
  intro P s t hlegal hnext herr
  obtain ⟨payload, v, hb, hv, hpayload, ⟨_, hc, hend⟩, rfl⟩ := encodeAt_completed hnext herr
  have ⟨_, hn, hp, hpl, hln, _⟩ := hv
  have hmax := hlegal.maxCorr_lt _ hn
  have hlen := hend.length_eq hv hpayload
  have hsat := hend.sat_of_end hv hpayload
  exact ⟨payload, v.buf, v.c, zext v.c, hb, rfl, rfl, toNat_zext_of_lt (by omega), hc, hlen, hsat, hend.encodedStream,
    _, execScan_of_sat rfl hp hpl (by simp only [State.setStatus_l, State.setRes_l, State.setBuf_l]; omega) hsat, rfl⟩

end Sys2Proof.Machine
end

section
/-!
PROOFS. The Decoder and its command DECODE (spec 44_decoder.md R210 to R220). One undo is brought to the buffer's own
positions: its index and its scan read the buffer itself, and what it answers is `restoreWindow`, whose bits are the
replay's closed form (R216). Everything about the record loop goes through its trace `DecodeReaches`: wherever the trace
comes to with at most MAX_CORR(n) records undone, the loop's result is that of going on from that point
(`DecodeReaches.decodeCore_eq`), and the trace comes to a last bit 1 or to one of the loop's errors
(`DecodeReaches.finishes_or_fails`), so these two conditions are exactly the loop's two results. For a stream of the
format the trace is its history of corrections, walked back (`EncodedStream.decodeReaches`).
-/

namespace Sys2Proof.Machine

/-! ## Bits of the sequence operations -/

theorem bitAt_insertBits_left {s t : Bits} {a x : Nat} (ha : a ≤ s.length) (hx : x < a) :
    bitAt (insertBits s a t) x = bitAt s x := by
  have htake : (s.take a).length = a := List.length_take_of_le ha
  rw [insertBits, bitAt_append_left (by omega)]
  simp [bitAt, List.getD_eq_getElem?_getD, hx]

theorem bitAt_insertBits_right {s t : Bits} {a x : Nat} (ha : a ≤ s.length) (hx : a + t.length ≤ x) :
    bitAt (insertBits s a t) x = bitAt s (x - t.length) := by
  have htake : (s.take a).length = a := List.length_take_of_le ha
  have hpos : a + (x - a - t.length) = x - t.length := by omega
  rw [insertBits, bitAt_append_right (by omega), htake, bitAt_append_right (by omega)]
  simp only [bitAt, List.getD_eq_getElem?_getD, List.getElem?_drop, hpos]

/-- A position and its remainder by a period hold the same bit: a multiple of the period lies between them (R126). -/
theorem IsPeriod.bitAt_mod {s : Bits} {q t : Nat} (hq : IsPeriod s q) (ht : t < s.length) :
    bitAt s (t % q) = bitAt s t := by
  have hdiv : t % q + t / q * q = t := Nat.mod_add_div' t q
  obtain hzero | hpos := Nat.eq_zero_or_pos (t / q)
  · rw [hzero, Nat.zero_mul, Nat.add_zero] at hdiv
    rw [hdiv]
  · rw [(hq.mul hpos).2 (t % q) (by omega), hdiv]

theorem IsPeriod.bitAt_window_mod {buf : Bits} {i l q t : Nat} (hq : IsPeriod (window buf i l) q) (hfit : i + l ≤ buf.length)
    (ht : t < l) : bitAt buf (i + t % q) = bitAt buf (i + t) := by
  have hlen : (window buf i l).length = l := slice_length_of_fits hfit
  have hmod := hq.bitAt_mod (ht.trans_eq hlen.symm)
  have hle : t % q ≤ t := Nat.mod_le t q
  rwa [window, bitAt_slice (by omega), bitAt_slice ht] at hmod

/-! ## The periodic replay -/

/-- The replay has come to position `t`: from `index` up to it stand the first `q` bits repeated, and the rest is
untouched (R216). -/
def ReplayedUpTo (s : Bits) (index q t : Nat) (b : Bits) : Prop :=
  b.length = s.length ∧
    ∀ x, bitAt b x = if index ≤ x ∧ x < t then bitAt s (index + (x - index) % q) else bitAt s x

theorem replayedUpTo_start (s : Bits) (index q : Nat) : ReplayedUpTo s index q (index + q) s := by
  refine ⟨rfl, fun x => ?_⟩
  split
  · rw [Nat.mod_eq_of_lt (by omega)]
    congr 1
    omega
  · rfl

/-- One round reads the bit the earlier rounds left `q` positions below (R15, R216). -/
theorem ReplayedUpTo.succ {s b : Bits} {index q t : Nat} (hq : 1 ≤ q) (hqt : index + q ≤ t) (ht : t < s.length)
    (h : ReplayedUpTo s index q t b) : ReplayedUpTo s index q (t + 1) (b.set t (bitAt b (t - q))) := by
  obtain ⟨hlen, hbits⟩ := h
  refine ⟨List.length_set.trans hlen, fun x => ?_⟩
  by_cases hx : t = x
  · subst hx
    have hshift : t - index = t - q - index + q := by omega
    rw [bitAt_set_self _ (by omega), hbits, if_pos (by omega), if_pos (by omega), hshift, Nat.add_mod_right]
  · rw [bitAt_set_ne _ hx, hbits]
    exact if_congr (by omega) rfl rfl

/-- R216's closed form, with the positions around the window. -/
theorem replay_replayedUpTo {s : Bits} {index q l : Nat} (hq : 1 ≤ q) (hql : q ≤ l) (hfit : index + l ≤ s.length) :
    ReplayedUpTo s index q (index + l) (replay s index q l) := by
  have hend : index + q + (l - q) = index + l := by omega
  have hreplay := forFrom_induction (fun t b => b.set t (bitAt b (t - q))) (ReplayedUpTo s index q) (l - q) (index + q) s
    (replayedUpTo_start s index q) fun t b hqt ht h => h.succ hq hqt (by omega)
  rwa [hend] at hreplay

/-! ## The backward scan -/

/-- The scan exhausts a range with no 1 in it (R214). -/
theorem markerScan_eq_none {buf : Bits} {index t : Nat}
    (hzero : ∀ x, 1 ≤ x → x ≤ t → bitAt buf (index + x) = false) : markerScan buf index t = none := by
  induction t with
  | zero => rfl
  | succ t ih =>
    rw [markerScan, hzero (t + 1) (by omega) le_rfl, if_neg Bool.false_ne_true]
    exact ih fun x hx hxt => hzero x hx (by omega)

theorem markerScan_bounds {buf : Bits} {index q t : Nat} (h : markerScan buf index t = some q) : 1 ≤ q ∧ q ≤ t := by
  induction t with
  | zero => cases h
  | succ t ih =>
    rw [markerScan] at h
    split at h
    · cases h
      exact ⟨by omega, le_rfl⟩
    · obtain ⟨hq, hqt⟩ := ih h
      exact ⟨hq, by omega⟩

/-- The scan reads only the positions of its range, which step 1b left in the buffer. -/
theorem markerScan_slice {buf : Bits} {m index t : Nat} (ht : index + t < m) :
    markerScan (slice buf 0 m) index t = markerScan buf index t := by
  induction t with
  | zero => rfl
  | succ t ih => rw [markerScan, markerScan, bitAt_slice ht, Nat.zero_add, ih (by omega)]

/-! ## One undo -/

/-- Steps 1d and 1e of R211: room for the window's removed bits, and the replay over it. -/
def restoreWindow (n l p : Nat) (buf : Bits) (index q : Nat) : Bits :=
  replay (insertBits (slice buf 0 (n - clog2 n)) (index + p) (List.replicate (l - p) false)) index q l

section Undo

variable {nmax n l p index q : Nat} {buf : Bits}

theorem dropLast_one_eq_slice (hlen : buf.length = n + 1) : dropLast buf 1 = slice buf 0 n := by
  rw [dropLast, hlen]
  rfl

/-- Step 1b reads the `clog2 n` bits before the last one (R212). -/
theorem takeLast_record (hv : ValidParams nmax n l p) (hlen : buf.length = n + 1) :
    takeLast (dropLast buf 1) (clog2 n) = slice buf (n - clog2 n) (clog2 n) := by
  have hrecord : n - (n - clog2 n) = clog2 n := by omega
  rw [takeLast, dropLast_length, hlen, Nat.add_sub_cancel, dropLast, hlen, Nat.add_sub_cancel, List.drop_take, hrecord]
  rfl

/-- Steps 1a and 1b leave the first `n - clog2 n` bits. -/
theorem dropLast_record (hlen : buf.length = n + 1) :
    dropLast (dropLast buf 1) (clog2 n) = slice buf 0 (n - clog2 n) := by
  rw [dropLast, dropLast_length, hlen, Nat.add_sub_cancel, dropLast, hlen, Nat.add_sub_cancel, List.take_take,
    min_eq_left (Nat.sub_le _ _)]
  rfl

/-- R213. -/
theorem undo_of_index_gt (hv : ValidParams nmax n l p) (hlen : buf.length = n + 1)
    (hindex : index = fromBits (slice buf (n - clog2 n) (clog2 n))) (hi : n + 1 - l < index) :
    undo n l p buf = .error .malformedStream := by
  simp only [undo, takeLast_record hv hlen, ← hindex, hi, if_true]

/-- R214: the scan finds no marker. -/
theorem undo_of_markerScan_none (hv : ValidParams nmax n l p) (hlen : buf.length = n + 1)
    (hindex : index = fromBits (slice buf (n - clog2 n) (clog2 n))) (hi : index ≤ n + 1 - l)
    (hscan : markerScan buf index (p - 1) = none) : undo n l p buf = .error .malformedStream := by
  rw [← markerScan_slice (m := n - clog2 n) (by omega)] at hscan
  simp only [undo, takeLast_record hv hlen, dropLast_record hlen, ← hindex, hi.not_gt, if_false, hscan]

theorem undo_of_markerScan_some (hv : ValidParams nmax n l p) (hlen : buf.length = n + 1)
    (hindex : index = fromBits (slice buf (n - clog2 n) (clog2 n))) (hi : index ≤ n + 1 - l)
    (hscan : markerScan buf index (p - 1) = some q) : undo n l p buf = .ok (restoreWindow n l p buf index q) := by
  rw [← markerScan_slice (m := n - clog2 n) (by omega)] at hscan
  simp only [undo, takeLast_record hv hlen, dropLast_record hlen, ← hindex, hi.not_gt, if_false, hscan, restoreWindow]

/-- R211 step 1f, R216: the restored buffer has `n + 1` bits again, and which of the old ones stand where. -/
theorem restoreWindow_outcome (hv : ValidParams nmax n l p) (hlen : buf.length = n + 1) (hi : index ≤ n + 1 - l)
    (hq : 1 ≤ q) (hqp : q < p) :
    (restoreWindow n l p buf index q).length = n + 1 ∧
    (∀ x, x < index → bitAt (restoreWindow n l p buf index q) x = bitAt buf x) ∧
    (∀ t, t < l → bitAt (restoreWindow n l p buf index q) (index + t) = bitAt buf (index + t % q)) ∧
    (∀ x, index + l ≤ x → x ≤ n → bitAt (restoreWindow n l p buf index q) x = bitAt buf (x - (l - p))) := by
  have hbody : (slice buf 0 (n - clog2 n)).length = n - clog2 n := slice_length_of_fits (by omega)
  have hkept : ∀ x, x < n - clog2 n → bitAt (slice buf 0 (n - clog2 n)) x = bitAt buf x := fun x hx => by
    rw [bitAt_slice hx, Nat.zero_add]
  have hroom : (List.replicate (l - p) false).length = l - p := List.length_replicate
  have hinsert := insertBits_length (s := slice buf 0 (n - clog2 n)) (a := index + p) (List.replicate (l - p) false)
    (by omega)
  obtain ⟨hlength, hbits⟩ := replay_replayedUpTo (index := index) (q := q) (l := l) hq (by omega)
    (show index + l ≤ (insertBits (slice buf 0 (n - clog2 n)) (index + p) (List.replicate (l - p) false)).length by omega)
  refine ⟨hlength.trans (by omega), fun x hx => ?before, fun t ht => ?window, fun x hx hxn => ?after⟩
  case before =>
    rw [restoreWindow, hbits, if_neg (by omega), bitAt_insertBits_left (by omega) (by omega), hkept x (by omega)]
  case window =>
    have hmod : t % q < q := Nat.mod_lt t hq
    rw [restoreWindow, hbits, if_pos (by omega), Nat.add_sub_cancel_left, bitAt_insertBits_left (by omega) (by omega),
      hkept _ (by omega)]
  case after =>
    rw [restoreWindow, hbits, if_neg (by omega), bitAt_insertBits_right (by omega) (by omega), hroom, hkept _ (by omega)]

/-- What one undo can do: MALFORMED_STREAM, or a buffer of `n + 1` bits again. -/
theorem undo_cases (hv : ValidParams nmax n l p) (hlen : buf.length = n + 1) :
    undo n l p buf = .error .malformedStream ∨ ∃ out, undo n l p buf = .ok out ∧ out.length = n + 1 := by
  obtain hgt | hi := lt_or_ge (n + 1 - l) (fromBits (slice buf (n - clog2 n) (clog2 n)))
  · exact .inl (undo_of_index_gt hv hlen rfl hgt)
  · cases hscan : markerScan buf (fromBits (slice buf (n - clog2 n) (clog2 n))) (p - 1) with
    | none => exact .inl (undo_of_markerScan_none hv hlen rfl hi hscan)
    | some q =>
      obtain ⟨hq, hqp⟩ := markerScan_bounds hscan
      obtain ⟨hlength, _⟩ := restoreWindow_outcome hv hlen hi hq (by omega)
      exact .inr ⟨_, undo_of_markerScan_some hv hlen rfl hi hscan, hlength⟩

end Undo

/-! ## The statements about one undo -/

/-- Settles O45: the cases are those of the index test and of the scan; the third is `restoreWindow_outcome` with the
distance of the last 1 as the period. -/
theorem undoOutcome : Obligations.UndoOutcome := by
  unfold Obligations.UndoOutcome
  intro nmax n l p index buf hv hlen hindex
  refine ⟨undo_of_index_gt hv hlen hindex, fun hi hzero => ?noMarker, fun j hi hj hjp hone hzero => ?marker⟩
  case noMarker =>
    exact undo_of_markerScan_none hv hlen hindex hi
      (markerScan_eq_none fun x hx hxp => hzero (index + x) (by omega) (by omega))
  case marker =>
    obtain ⟨q, rfl⟩ := Nat.exists_eq_add_of_lt hj
    have hscan : markerScan buf index (p - 1) = some (q + 1) :=
      markerScan_eq_some (by omega) (by omega) hone fun x hx hxp => hzero (index + x) (by omega) (by omega)
    have hperiod : index + q + 1 - index = q + 1 := by omega
    rw [hperiod]
    exact ⟨_, undo_of_markerScan_some hv hlen hindex hi hscan,
      restoreWindow_outcome hv hlen hi (by omega) (by omega)⟩

/-- Settles O46: the record reads back as `i` and the marker stands at `i + q` (O43), so the undo answers as in O45; its
bits are the old ones by the frame of the correction (O42) and, in the window, by the period. -/
theorem undoReversesCorrect : Obligations.UndoReversesCorrect := by
  unfold Obligations.UndoReversesCorrect
  intro nmax n l p i q buf hv hlen hi hq hqp hperiod
  obtain ⟨_, _, _, hindex, _, hone, hzero, _⟩ := recordAndMarkerLayout nmax n l p i q buf hv hlen hi hq hqp
  obtain ⟨_, hcorrect, hkept, _, _, hmoved⟩ := correctLengthAndFrame nmax n l p i q buf hv hlen hi hq hqp
  obtain ⟨_, _, hmarker⟩ := undoOutcome nmax n l p i _ hv hcorrect hindex.symm
  obtain ⟨out, hout, houtlen, hbefore, hwindow, hafter⟩ := hmarker (i + q) hi (by omega) (by omega) hone
    fun x hx hxp => hzero x (by omega) hxp
  rw [Nat.add_sub_cancel_left] at hwindow
  rw [hout]
  refine congrArg _ (bits_ext (houtlen.trans hlen.symm) fun x hx => ?_)
  obtain hlt | hge := lt_or_ge x i
  · rw [hbefore x hlt, hkept x (by omega)]
  obtain ⟨t, rfl⟩ := Nat.exists_eq_add_of_le hge
  obtain ht | ht := lt_or_ge t l
  · have hmod : t % q < q := Nat.mod_lt t hq
    rw [hwindow t ht, hkept _ (by omega), hperiod.bitAt_window_mod (by omega) ht]
  · have hback : i + t - (l - p) + (l - p) = i + t := by omega
    rw [hafter _ (by omega) (by omega), hmoved _ (by omega) (by omega), hback]

/-! ## The record loop along its trace -/

/-- The trace comes, after `r <= mc` undos, to a last bit 1, with the bits `out` before it (R219). -/
def DecodeFinishesAt (mc n l p : Nat) (enc out : Bits) (r : Nat) : Prop :=
  r ≤ mc ∧ ∃ buf, DecodeReaches n l p enc r buf ∧ bitAt buf n = true ∧ out = slice buf 0 n

/-- The trace comes to a record that is one too many, or that cannot be undone (R213, R214, R218). -/
def DecodeFails (mc n l p : Nat) (enc : Bits) : Prop :=
  ∃ r buf, DecodeReaches n l p enc r buf ∧ bitAt buf n = false ∧ r ≤ mc ∧
    (r = mc ∨ undo n l p buf = .error .malformedStream)

section Loop

variable {nmax mc left n l p r : Nat} {enc buf buf' out : Bits}

/-- R219: a last bit 1 ends the loop. -/
theorem decodeLoop_of_last_one (hlen : buf.length = n + 1) (hlast : bitAt buf n = true) :
    decodeLoop n l p left r buf = .ok (slice buf 0 n, r) := by
  have hdone : ¬ recordRemains buf = true := by simp [recordRemains_iff hlen, hlast]
  cases left <;> rw [decodeLoop, if_neg hdone, dropLast_one_eq_slice hlen]

/-- R218. -/
theorem decodeLoop_of_spent (hlen : buf.length = n + 1) (hlast : bitAt buf n = false) :
    decodeLoop n l p 0 r buf = .error .malformedStream := by
  rw [decodeLoop, if_pos ((recordRemains_iff hlen).mpr hlast)]

theorem decodeLoop_of_undo_ok (hlen : buf.length = n + 1) (hlast : bitAt buf n = false) (hundo : undo n l p buf = .ok buf') :
    decodeLoop n l p (left + 1) r buf = decodeLoop n l p left (r + 1) buf' := by
  rw [decodeLoop, if_pos ((recordRemains_iff hlen).mpr hlast), hundo]

/-- R213, R214, R218: whatever room is left, a record that cannot be undone ends the loop. -/
theorem decodeLoop_of_undo_error (hlen : buf.length = n + 1) (hlast : bitAt buf n = false)
    (hundo : undo n l p buf = .error .malformedStream) : decodeLoop n l p left r buf = .error .malformedStream := by
  cases left with
  | zero => exact decodeLoop_of_spent hlen hlast
  | succ left => rw [decodeLoop, if_pos ((recordRemains_iff hlen).mpr hlast), hundo]

theorem DecodeReaches.length_eq (hv : ValidParams nmax n l p) (henc : enc.length = n + 1)
    (h : DecodeReaches n l p enc r buf) : buf.length = n + 1 := by
  induction h with
  | start => exact henc
  | next r buf buf' _ _ hundo ih =>
    obtain herror | ⟨out, hok, hlength⟩ := undo_cases hv ih
    · cases herror.symm.trans hundo
    · cases hok.symm.trans hundo
      exact hlength

/-- The loop passes every point of its trace within the bound: its result is that of going on from there. -/
theorem DecodeReaches.decodeCore_eq (hv : ValidParams nmax n l p) (henc : enc.length = n + 1)
    (h : DecodeReaches n l p enc r buf) (hr : r ≤ mc) : decodeCore mc n l p enc = decodeLoop n l p (mc - r) r buf := by
  induction h with
  | start => rfl
  | next r buf buf' before hlast hundo ih =>
    have hleft : mc - r = mc - (r + 1) + 1 := by omega
    rw [ih (by omega), hleft, decodeLoop_of_undo_ok (before.length_eq hv henc) hlast hundo]

/-- R218: from any of its points within the bound the trace goes on to a last bit 1 or to an error, because each round
undoes one of the `mc` records. -/
theorem DecodeReaches.finishes_or_fails {r : Nat} {buf : Bits} (hv : ValidParams nmax n l p) (henc : enc.length = n + 1)
    (h : DecodeReaches n l p enc r buf) (hr : r ≤ mc) :
    (∃ out c, DecodeFinishesAt mc n l p enc out c) ∨ DecodeFails mc n l p enc := by
  cases hlast : bitAt buf n with
  | true => exact .inl ⟨_, r, hr, buf, h, hlast, rfl⟩
  | false =>
    obtain herror | ⟨buf', hok, _⟩ := undo_cases hv (h.length_eq hv henc)
    · exact .inr ⟨r, buf, h, hlast, hr, .inr herror⟩
    · obtain rfl | hroom := hr.eq_or_lt
      · exact .inr ⟨r, buf, h, hlast, le_rfl, .inl rfl⟩
      · exact DecodeReaches.finishes_or_fails hv henc (.next r buf buf' h hlast hok) hroom
termination_by mc - r

/-! ## The loop's two results -/

theorem DecodeFinishesAt.decodeCore_eq (hv : ValidParams nmax n l p) (henc : enc.length = n + 1)
    (h : DecodeFinishesAt mc n l p enc out r) : decodeCore mc n l p enc = .ok (out, r) := by
  obtain ⟨hr, buf, hreach, hlast, rfl⟩ := h
  rw [hreach.decodeCore_eq hv henc hr, decodeLoop_of_last_one (hreach.length_eq hv henc) hlast]

theorem DecodeFails.decodeCore_eq (hv : ValidParams nmax n l p) (henc : enc.length = n + 1)
    (h : DecodeFails mc n l p enc) : decodeCore mc n l p enc = .error .malformedStream := by
  obtain ⟨r, buf, hreach, hlast, hr, hcause⟩ := h
  have hlen := hreach.length_eq hv henc
  rw [hreach.decodeCore_eq hv henc hr]
  obtain rfl | herror := hcause
  · rw [Nat.sub_self, decodeLoop_of_spent hlen hlast]
  · exact decodeLoop_of_undo_error hlen hlast herror

theorem decode_finishes_or_fails (mc : Nat) (hv : ValidParams nmax n l p) (henc : enc.length = n + 1) :
    (∃ out r, DecodeFinishesAt mc n l p enc out r) ∨ DecodeFails mc n l p enc :=
  DecodeReaches.start.finishes_or_fails hv henc (Nat.zero_le mc)

theorem decodeCore_ok_iff (hv : ValidParams nmax n l p) (henc : enc.length = n + 1) :
    decodeCore mc n l p enc = .ok (out, r) ↔ DecodeFinishesAt mc n l p enc out r := by
  refine ⟨fun hok => ?_, fun h => h.decodeCore_eq hv henc⟩
  obtain ⟨_, _, hfinish⟩ | hfail := decode_finishes_or_fails mc hv henc
  · cases hok.symm.trans (hfinish.decodeCore_eq hv henc)
    exact hfinish
  · cases hok.symm.trans (hfail.decodeCore_eq hv henc)

/-- MALFORMED_STREAM is the loop's only error (R222). -/
theorem decodeCore_error_iff {e : ErrCode} (hv : ValidParams nmax n l p) (henc : enc.length = n + 1) :
    decodeCore mc n l p enc = .error e ↔ e = .malformedStream ∧ DecodeFails mc n l p enc := by
  constructor
  · intro herror
    obtain ⟨_, _, hfinish⟩ | hfail := decode_finishes_or_fails mc hv henc
    · cases herror.symm.trans (hfinish.decodeCore_eq hv henc)
    · cases herror.symm.trans (hfail.decodeCore_eq hv henc)
      exact ⟨rfl, hfail⟩
  · rintro ⟨rfl, hfail⟩
    exact hfail.decodeCore_eq hv henc

end Loop

/-! ## The streams of the format -/

section Stream

variable {nmax mc n l p j r : Nat} {payload enc buf buf' S : Bits}

/-- A trace can be begun one undo earlier. -/
theorem DecodeReaches.cons (hlast : bitAt enc n = false) (hundo : undo n l p enc = .ok buf)
    (h : DecodeReaches n l p buf r buf') : DecodeReaches n l p enc (r + 1) buf' := by
  induction h with
  | start => exact .next 0 enc buf .start hlast hundo
  | next r b b' _ hremains hnext ih => exact .next (r + 1) b b' ih hremains hnext

/-- R220: on a stream of the format the undos walk its history back to the terminated payload, because each correction
was made with a period of its window (R217) and leaves a last bit 0 (R82). -/
theorem EncodedStream.decodeReaches (hv : ValidParams nmax n l p) (hpayload : payload.length = n)
    (hS : EncodedStream n l p payload j S) : DecodeReaches n l p S j (payload ++ [true]) := by
  induction hS with
  | start => exact .start
  | next j i q S history hoffset hmin hviolation ih =>
    obtain ⟨hlen, _⟩ := history.length_and_last hv hpayload
    obtain ⟨_, hperiod, _⟩ := computeMinPeriod_eq_some_iff.mp hmin
    exact ih.cons (bitAt_correct_last hv hlen hoffset)
      (undoReversesCorrect nmax n l p i q S hv hlen hoffset hperiod.1 hviolation hperiod)

/-- With room for its records, a stream of the format decodes to its payload and its count. -/
theorem EncodedStream.decodeFinishesAt (hv : ValidParams nmax n l p) (hpayload : payload.length = n)
    (hS : EncodedStream n l p payload j S) (hj : j ≤ mc) : DecodeFinishesAt mc n l p S payload j := by
  refine ⟨hj, payload ++ [true], hS.decodeReaches hv hpayload, ?terminator, ?payloadBits⟩
  case terminator => exact (EncodedStream.start.length_and_last hv hpayload).2
  case payloadBits => exact (List.take_left' hpayload).symm

end Stream

/-! ## The statements about the loop and the command -/

/-- Settles O58: `decodeCore_ok_iff` and `decodeCore_error_iff` are the first two clauses, and a stream that ends in 1 is
the trace's end at its start. -/
theorem decodeLoopFollowsTrace : Obligations.DecodeLoopFollowsTrace := by
  unfold Obligations.DecodeLoopFollowsTrace
  exact fun nmax n l p mc enc hv henc => ⟨fun out r => decodeCore_ok_iff hv henc,
    (decodeCore_error_iff hv henc).trans (and_iff_right rfl),
    fun hlast => (decodeCore_ok_iff hv henc).mpr ⟨Nat.zero_le mc, enc, .start, hlast, rfl⟩⟩

/-- Settles O24: DECODE's answers are the model's own `decodeAt_next_iff`, read from right to left; the result's length and
the error's code are those of the trace's end. -/
theorem decodeRule : Obligations.DecodeRule := by
  unfold Obligations.DecodeRule
  intro P s
  refine ⟨fun b out r hb hv hlen hok => ?result, fun b e hb hv hlen herror => ?error, fun b hb hparams => ?badParams,
    fun b hb hv hlen => ?badLength, fun hb => ⟨_, withBuf_of_none hb _⟩⟩
  case result =>
    obtain ⟨_, buf, hreach, _, rfl⟩ := (decodeCore_ok_iff hv hlen).mp hok
    have hbuf := hreach.length_eq hv hlen
    exact ⟨slice_length_of_fits (by omega),
      (decodeAt_next_iff _ _ _).mpr ⟨b, hb, .inl ⟨hv, hlen, .inr ⟨_, r, hok, rfl⟩⟩⟩⟩
  case error =>
    obtain ⟨rfl, _⟩ := (decodeCore_error_iff hv hlen).mp herror
    exact (decodeAt_next_iff _ _ _).mpr ⟨b, hb, .inl ⟨hv, hlen, .inl ⟨_, herror, rfl⟩⟩⟩
  case badParams => exact (decodeAt_next_iff _ _ _).mpr ⟨b, hb, .inr (.inr ⟨hparams, rfl⟩)⟩
  case badLength => exact (decodeAt_next_iff _ _ _).mpr ⟨b, hb, .inr (.inl ⟨hv, hlen, rfl⟩)⟩

/-- Settles O51: a successful ENCODE leaves a stream of the format with at most MAX_CORR(n) corrections, and N, L and P as
they were; DECODE then writes back the payload, and the same RES and STATUS. -/
theorem encodeDecodeRoundTrip : Obligations.EncodeDecodeRoundTrip := by
  unfold Obligations.EncodeDecodeRoundTrip
  intro P s t hnext herr
  obtain ⟨payload, v, hb, hv, hpayload, ⟨_, hc, hend⟩, rfl⟩ := encodeAt_completed hnext herr
  have hdecode := (hend.encodedStream.decodeFinishesAt hv hpayload hc).decodeCore_eq hv (hend.length_eq hv hpayload)
  rw [hb]
  exact (decodeAt_next_iff _ _ _).mpr
    ⟨v.buf, rfl, .inl ⟨hv, hend.length_eq hv hpayload, .inr ⟨payload, v.c, hdecode, rfl⟩⟩⟩

end Sys2Proof.Machine
end


section
/-!
PROOFS. A command by its word: the opcode map inverted, and the steps that issue a command (spec 30_encoding.md R70 to R72;
20_memory.md section 4).
-/

namespace Sys2Proof.Machine

/-! ## The words of the commands -/

/-- The opcode map inverted (R71): a field OP selects the command whose word has that value. -/
theorem decodeOp_ok_iff (op : BitVec 4) (i : Instr) : decodeOp op = .ok i ↔ op.toNat = (encode i).toNat := by
  unfold decodeOp
  split
  case h_10 =>
    simp only [imp_false] at *
    cases i <;> simp [encode, *]
  all_goals next hop => cases i <;> simp [encode, hop]

/-- A word decodes to a command exactly when it is that command's word. -/
theorem decode_ok_iff_eq_encode (w : Word) (i : Instr) : decode w = .ok i ↔ w = encode i := by
  have hop : (encode i).toNat < 16 := by cases i <;> decide
  rw [decode_ok_iff, rsvdField_eq_zero_iff, decodeOp_ok_iff, toNat_opField, ← BitVec.toNat_inj]
  omega

/-! ## Issuing a command -/

theorem issueCommand_of_ok {run : Instr → State → Result} {w : Word} {i : Instr} (hi : decode w = .ok i) (s : State) :
    issueCommand run w s = run i s := by
  simp only [issueCommand, hi]

/-- A CMD write of a legal word runs its command on the state with the action taken from the script (R23). -/
theorem step_write_cmd_of_ok {s : State} {w : Word} {i : Instr} {rest : List HostAction}
    (hs : s.script = .write .word (regOffset .cmd) w :: rest) (hi : decode w = .ok i) :
    step s = exec i (s.setScript rest) := by
  rw [step_write_cmd hs, issueCommand_of_ok hi]

theorem commandWrite_encode (i : Instr) :
    commandWrite 32 (encode i).toNat = .write .word (regOffset .cmd) (encode i) := by
  rw [commandWrite, Nat.mod_eq_of_lt (encode i).isLt, BitVec.ofNat_toNat, BitVec.setWidth_eq]

theorem step_of_script_nil {s : State} (hs : s.script = []) : step s = .next s := by
  simp [step, stepScript, hs]

/-! ## The statements -/

/-- Settles O2: a command's word has that command's OP and no reserved bit, and OP determines the command. -/
theorem decodeEncodeAgree : Obligations.DecodeEncodeAgree := by
  unfold Obligations.DecodeEncodeAgree
  exact fun i _ => ⟨(decode_ok_iff_eq_encode _ i).mpr rfl, fun w => (decode_ok_iff_eq_encode w i).mp⟩

/-- Settles O3: eight words by evaluation. -/
theorem sampleWordsDecode : Obligations.SampleWordsDecode := by
  unfold Obligations.SampleWordsDecode
  decide

/-- Settles O4: CMD stands at offset 0. -/
theorem stepRunsDecodedCommand : Obligations.StepRunsDecodedCommand := by
  unfold Obligations.StepRunsDecodedCommand
  exact fun s w rest i hs hi => step_write_cmd_of_ok hs hi

/-- Settles O5: the action `withFetchWord` places is the write of the command's word, and taking it leaves the script as
it was. -/
theorem fetchWordRunsCommand : Obligations.FetchWordRunsCommand := by
  unfold Obligations.FetchWordRunsCommand
  intro s i
  have hs : (s.withFetchWord 32 (encode i).toNat).script = .write .word (regOffset .cmd) (encode i) :: s.script :=
    congrArg (· :: s.script) (commandWrite_encode i)
  exact step_write_cmd_of_ok hs ((decode_ok_iff_eq_encode _ i).mpr rfl)

/-- Settles O7: the step performs nothing. -/
theorem idleBlockHoldsState : Obligations.IdleBlockHoldsState := by
  unfold Obligations.IdleBlockHoldsState
  exact fun s => step_of_script_nil

end Sys2Proof.Machine
end


section
/-!
PROOFS. Which register an access reaches, what a read of it returns and what a write leaves for the next read (spec
10_state.md R22, R42, R43; 20_memory.md R52; 30_encoding.md R91).
-/

namespace Sys2Proof.Machine

/-! ## The register map -/

theorem regAt_eq_some_iff {offset : BitVec 8} {r : Reg} : regAt offset = some r ↔ offset = regOffset r :=
  ⟨eq_regOffset_of_regAt, fun h => h ▸ regAt_regOffset r⟩

theorem regOffset_aligned (r : Reg) : (regOffset r).toNat % 4 = 0 := by
  cases r <;> rfl

theorem regOffset_lt (r : Reg) : (regOffset r).toNat < 0x28 := by
  cases r <;> decide

theorem regAt_eq_none {offset : BitVec 8} (h : offset.toNat % 4 ≠ 0 ∨ 0x28 ≤ offset.toNat) : regAt offset = none := by
  refine Option.eq_none_iff_forall_ne_some.mpr fun r hr => ?_
  have haligned := regOffset_aligned r
  have hlt := regOffset_lt r
  rw [regAt_eq_some_iff.mp hr] at h
  omega

/-- R52: the accesses that reach no register. -/
theorem exists_selectReg_error_iff (size : AccessSize) (offset : BitVec 8) :
    (∃ e, selectReg size offset = .error e) ↔ size ≠ .word ∨ offset.toNat % 4 ≠ 0 ∨ 0x28 ≤ offset.toNat := by
  constructor
  · rintro ⟨e, he⟩
    by_contra! hlegal
    obtain ⟨rfl, haligned, hlt⟩ := hlegal
    obtain ⟨r, rfl⟩ := exists_regOffset_eq haligned (by omega)
    cases he.symm.trans (selectReg_regOffset r)
  · intro hillegal
    cases hsel : selectReg size offset with
    | error e => exact ⟨e, rfl⟩
    | ok r =>
      obtain ⟨hsize, haligned, hreg⟩ := (selectReg_ok_iff size offset r).mp hsel
      have hnone := regAt_eq_none (hillegal.resolve_left (not_not_intro hsize))
      cases hnone.symm.trans hreg

/-! ## Register reads and writes -/

theorem readReg_res_of_some {s : State} {v : Word} (h : s.res = some v) : readReg .res s = .ok v := by
  simp [readReg, h]

theorem readReg_res_of_none {s : State} (h : s.res = none) : readReg .res s = .error .readPoisonedRes := by
  simp [readReg, h]

theorem readReg_bufLen_of_none {s : State} (h : s.buf = none) : readReg .bufLen s = .error .readPoisonedBufLen := by
  simp [readReg, (bufLen_eq_none_iff s).mpr h]

/-- R12: the least exponent is unique. -/
theorem eq_clog2_of_least {n k : Nat} (hle : n ≤ 2 ^ k) (hleast : ∀ j, n ≤ 2 ^ j → k ≤ j) : k = clog2 n :=
  le_antisymm (hleast _ (le_two_pow_clog2 n)) (clog2_le_iff.mpr hle)

/-- The registers that hold what the host writes (R22). -/
def IsOperand (r : Reg) : Prop := r = .n ∨ r = .p ∨ r = .l ∨ r = .a ∨ r = .w

theorem IsOperand.ne_cmd {r : Reg} (hr : IsOperand r) : r ≠ .cmd := by
  rintro rfl
  simp [IsOperand] at hr

theorem IsOperand.readReg_writeReg {r : Reg} (hr : IsOperand r) (v : Word) (s : State) :
    readReg r (writeReg r v s) = .ok v := by
  obtain rfl | rfl | rfl | rfl | rfl := hr <;> rfl

theorem writeReg_script (r : Reg) (v : Word) (s : State) : (writeReg r v s).script = s.script := by
  cases r <;> rfl

theorem writeReg_replies (r : Reg) (v : Word) (s : State) : (writeReg r v s).replies = s.replies := by
  cases r <;> rfl

theorem writeReg_setScript (r : Reg) (v : Word) (s : State) (acts : List HostAction) :
    writeReg r v (s.setScript acts) = (writeReg r v s).setScript acts := by
  cases r <;> rfl

/-- A word read of a poisoned register is the model fault (R32). -/
theorem step_read_regOffset_fault {s : State} {r : Reg} {f : Fault} {rest : List HostAction}
    (hf : readReg r (s.setScript rest) = .error f) (hs : s.script = .read .word (regOffset r) :: rest) :
    step s = .fault f := by
  rw [step_of_cons hs]
  change readWord .word (regOffset r) (s.setScript rest) = _
  simp [readWord, hf]

/-! ## Writes of a script's values -/

/-- `WR` of a register other than CMD, as the first of `k + 1` steps (R90). -/
theorem run_writeAction {s : State} {r : Reg} {v : Nat} {rest : List HostAction} (hr : r ≠ .cmd)
    (hs : s.script = writeAction r v :: rest) (k : Nat) :
    Host.Core.run Sys2Proof.core (k + 1) s =
      Host.Core.run Sys2Proof.core k (writeReg r (zext v) (s.setScript rest)) :=
  run_succ_of_next (step_write_regOffset hr hs) k

/-! ## The statements -/

/-- Settles O56: the ten offsets by evaluation, and `regAt` is the inverse of `regOffset`. -/
theorem registerMapOffsets : Obligations.RegisterMapOffsets := by
  unfold Obligations.RegisterMapOffsets
  exact ⟨rfl, rfl, rfl, rfl, rfl, rfl, rfl, rfl, rfl, rfl, fun _ => regAt_eq_none, fun _ _ => regAt_eq_some_iff⟩

/-- Settles O8: one read rule at each register's offset; RES and BUF_LEN fault while they are ⊥, and the given `k` is
the `clog2` K is computed by. -/
theorem registerReadReturns : Obligations.RegisterReadReturns := by
  unfold Obligations.RegisterReadReturns
  intro s offset rest hs
  have hread {r : Reg} {v : Word} (hv : readReg r (s.setScript rest) = .ok v) (hoffset : offset = regOffset r) :
      step s = .next ((s.setScript rest).reply (.word v)) := step_read_regOffset hv (hoffset ▸ hs)
  have hfault {r : Reg} {f : Fault} (hf : readReg r (s.setScript rest) = .error f) (hoffset : offset = regOffset r) :
      step s = .fault f := step_read_regOffset_fault hf (hoffset ▸ hs)
  refine ⟨hread (r := .cmd) rfl, hread (r := .status) rfl, hread (r := .n) rfl, hread (r := .p) rfl,
    hread (r := .l) rfl, hread (r := .a) rfl, hread (r := .w) rfl,
    fun h v hv => hread (r := .res) (readReg_res_of_some hv) h,
    fun h hv => hfault (r := .res) (readReg_res_of_none hv) h,
    fun h b hb => hread (r := .bufLen) (readReg_bufLen_of_some hb) h,
    fun h hb => hfault (r := .bufLen) (readReg_bufLen_of_none hb) h, fun h k hle hleast => ?k⟩
  case k =>
    rw [eq_clog2_of_least hle hleast]
    exact hread (r := .k) (readReg_k _) h

/-- Settles O9: each of the five offsets is an operand register's; the write is `writeReg`, which keeps the script, and
the read after it returns what was written. -/
theorem operandWriteThenRead : Obligations.OperandWriteThenRead := by
  unfold Obligations.OperandWriteThenRead
  intro s offset v rest hoffset hs
  obtain ⟨r, hr, rfl⟩ : ∃ r, IsOperand r ∧ regOffset r = offset := by
    obtain rfl | rfl | rfl | rfl | rfl := hoffset
    exacts [⟨.n, by simp [IsOperand], rfl⟩, ⟨.p, by simp [IsOperand], rfl⟩, ⟨.l, by simp [IsOperand], rfl⟩,
      ⟨.a, by simp [IsOperand], rfl⟩, ⟨.w, by simp [IsOperand], rfl⟩]
  have hread : readReg r ((writeReg r v (s.setScript (.read .word (regOffset r) :: rest))).setScript rest) = .ok v := by
    rw [← writeReg_setScript]
    exact hr.readReg_writeReg v _
  refine ⟨_, step_write_regOffset hr.ne_cmd hs, writeReg_eq_ite_regOffset r v _, ?_⟩
  rw [step_read_regOffset hread (writeReg_script r v _), State.reply, State.setScript_replies, writeReg_replies]
  rfl

/-- Settles O15: SETUP and WIN are writes of operand registers, one step each; a mnemonic is the CMD write of its word. -/
theorem setupAndWinWriteOperands : Obligations.SetupAndWinWriteOperands := by
  unfold Obligations.SetupAndWinWriteOperands
  intro s rest
  refine ⟨fun n p _ hs => ?setup, fun a w _ hs => ?win, fun i hs => ?issue⟩
  case setup =>
    rw [run_writeAction (r := .n) (by decide) hs, run_writeAction (r := .p) (by decide) rfl,
      run_writeAction (r := .l) (by decide) rfl]
    rfl
  case win =>
    rw [run_writeAction (r := .a) (by decide) hs, run_writeAction (r := .w) (by decide) rfl]
    rfl
  case issue => exact step_write_cmd_of_ok hs ((decode_ok_iff_eq_encode _ i).mpr rfl)

end Sys2Proof.Machine
end


section
/-!
PROOFS. What a command can do, once for all eight: whether it answers, and what it leaves in each field (spec 10_state.md
R32; 30_encoding.md R74, R76; 60_exceptions.md R250 to R254). `execAt_next` is the inversion lemma; the values STATUS takes,
the effect of an error and the frames are read off it.
-/

namespace Sys2Proof.Machine

/-! ## When a command answers -/

theorem exists_withBuf_next {i : Instr} {s : State} {run : Bits → Result} (hbuf : s.buf ≠ none)
    (hrun : ∀ b, ∃ t, run b = .next t) : ∃ t, withBuf i s run = .next t := by
  obtain ⟨b, hb⟩ := Option.ne_none_iff_exists'.mp hbuf
  rw [withBuf_of_some hb]
  exact hrun b

/-- R32: with BUF not ⊥ every command answers a next state, and TOBITS always does: behind the poison check a command is
tests, each branch of which completes or raises an error. -/
theorem exists_execAt_next {P : Params} {i : Instr} {s : State} (h : i = .tobits ∨ s.buf ≠ none) :
    ∃ t, execAt P i s = .next t := by
  cases i
  case tobits =>
    rw [execAt, tobitsAt]
    split <;> exact ⟨_, rfl⟩
  all_goals
    refine exists_withBuf_next (h.resolve_left nofun) fun b => ?_
    repeat' (beta_reduce; split)
    all_goals exact ⟨_, rfl⟩

/-! ## What a command does -/

/-- What a command has written when it completes, before STATUS (R76): the fields it lists, and of their values what
the invariant of the state needs. -/
inductive Written (P : Params) (s : State) : Instr → State → Prop where
  | tobits (out : Bits) (fits : out.length ≤ P.nmax + 1) : Written P s .tobits (s.setBuf out)
  | frombits (v : Word) : Written P s .frombits (s.setRes v)
  | zfunc (x b : Bits) (buf : s.buf = some b) (fits : x.length ≤ b.length) : Written P s .zfunc (s.setZout (computeZ x))
  | periods (x b : Bits) (buf : s.buf = some b) (fits : x.length ≤ b.length) : Written P s .periods (s.setPset (periodSet x))
  | minperiod (v : Word) : Written P s .minperiod (s.setRes v)
  | scan (v : Word) : Written P s .scan (s.setRes v)
  | encode (out : Bits) (v : Word) (fits : out.length ≤ P.nmax + 1) : Written P s .encode ((s.setBuf out).setRes v)
  | decode (out : Bits) (v : Word) (fits : out.length ≤ P.nmax + 1) : Written P s .decode ((s.setBuf out).setRes v)

/-- The check-phase errors of each command (R253). -/
def CheckError (i : Instr) (e : ErrCode) : Prop :=
  e = .precondition ∨ (i = .minperiod ∧ e = .emptyInput) ∨ (i = .decode ∧ e = .malformedStream)

/-- The execution-phase errors (R254). -/
def ExecError (i : Instr) (e : ErrCode) : Prop :=
  (i = .encode ∧ e = .encodingDiverged) ∨ (i = .decode ∧ e = .malformedStream)

/-- The three ways a command ends: an error of the check phase, one of the execution phase, or completion (R73). -/
inductive CommandEnds (P : Params) (i : Instr) (s : State) : State → Prop where
  | check (e : ErrCode) (code : CheckError i e) : CommandEnds P i s (s.setStatus (statusWord false e))
  | exec (e : ErrCode) (code : ExecError i e) : CommandEnds P i s (s.poison.setStatus (statusWord false e))
  | complete (vf : Bool) (u : State) (flag : vf = true → i = .scan) (written : Written P s i u) :
      CommandEnds P i s (u.setStatus (statusWord vf .noError))

theorem CommandEnds.precondition (P : Params) (i : Instr) (s : State) :
    CommandEnds P i s (s.setStatus (statusWord false .precondition)) :=
  .check _ (.inl rfl)

theorem CommandEnds.completed {P : Params} {i : Instr} {s u : State} (written : Written P s i u) :
    CommandEnds P i s (u.setStatus (statusWord false .noError)) :=
  .complete false u nofun written

theorem win_length_le {a w : Word} {b : Bits} : (win a w b).length ≤ b.length := by
  rw [win, slice_length]
  omega

/-- What any command can do. -/
theorem execAt_next {P : Params} {i : Instr} {s t : State} (h : execAt P i s = .next t) : CommandEnds P i s t := by
  cases i with
  | tobits =>
    obtain ⟨hw, rfl⟩ | ⟨_, rfl⟩ := (tobitsAt_next_iff _ _ _).mp h
    · exact .completed (.tobits _ ((toBits_length _ _).trans_le hw))
    · exact .precondition P _ s
  | frombits =>
    obtain ⟨b, _, ⟨_, _, rfl⟩ | ⟨_, rfl⟩⟩ := (execFrombits_next_iff _ _).mp h
    · exact .completed (.frombits _)
    · exact .precondition P _ s
  | zfunc =>
    obtain ⟨b, hb, ⟨_, rfl⟩ | ⟨_, rfl⟩⟩ := (execZfunc_next_iff _ _).mp h
    · exact .completed (.zfunc _ b hb win_length_le)
    · exact .precondition P _ s
  | periods =>
    obtain ⟨b, hb, ⟨_, rfl⟩ | ⟨_, rfl⟩⟩ := (execPeriods_next_iff _ _).mp h
    · exact .completed (.periods _ b hb win_length_le)
    · exact .precondition P _ s
  | minperiod =>
    obtain ⟨b, _, ⟨_, ⟨_, rfl⟩ | ⟨q, _, rfl⟩⟩ | ⟨_, rfl⟩⟩ := (execMinperiod_next_iff _ _).mp h
    · exact .check _ (.inr (.inl ⟨rfl, rfl⟩))
    · exact .completed (.minperiod _)
    · exact .precondition P _ s
  | scan =>
    obtain ⟨b, _, ⟨_, ⟨_, rfl⟩ | ⟨f, _, rfl⟩⟩ | ⟨_, rfl⟩⟩ := (execScan_next_iff _ _).mp h
    · exact .completed (.scan _)
    · exact .complete true _ (fun _ => rfl) (.scan _)
    · exact .precondition P _ s
  | encode =>
    obtain ⟨b, _, ⟨hv, hlen, ⟨e, herror, rfl⟩ | ⟨v, hok, rfl⟩⟩ | ⟨_, rfl⟩⟩ := (encodeAt_next_iff _ _ _).mp h
    · obtain ⟨rfl, _⟩ := (encodeCore_error_iff hv hlen).mp herror
      exact .exec _ (.inl ⟨rfl, rfl⟩)
    · obtain ⟨_, _, hend⟩ := (encodeCore_ok_iff hv hlen).mp hok
      have hout := hend.length_eq hv hlen
      exact .completed (.encode _ _ (by omega))
    · exact .precondition P _ s
  | decode =>
    obtain ⟨b, _, ⟨hv, hlen, ⟨e, herror, rfl⟩ | ⟨out, r, hok, rfl⟩⟩ | ⟨_, _, rfl⟩ | ⟨_, rfl⟩⟩ :=
      (decodeAt_next_iff _ _ _).mp h
    · obtain ⟨rfl, _⟩ := (decodeCore_error_iff hv hlen).mp herror
      exact .exec _ (.inr ⟨rfl, rfl⟩)
    · obtain ⟨_, buf, hreach, _, rfl⟩ := (decodeCore_ok_iff hv hlen).mp hok
      have hbuf := hreach.length_eq hv hlen
      exact .completed (.decode _ _ (by rw [slice_length]; omega))
    · exact .check _ (.inr (.inr ⟨rfl, rfl⟩))
    · exact .precondition P _ s

/-! ## The fields of the state a command ends in -/

/-- The frame of `Written`: what the commands list (R76), and nothing else, is written. -/
theorem Written.frame {P : Params} {i : Instr} {s u : State} (h : Written P s i u) :
    ∃ res buf zout pset, u = { s with res := res, buf := buf, zout := zout, pset := pset } ∧
      (i ≠ .zfunc → zout = s.zout) ∧ (i ≠ .periods → pset = s.pset) ∧
      (i ≠ .tobits → i ≠ .encode → i ≠ .decode → buf = s.buf) ∧
      (i = .tobits ∨ i = .zfunc ∨ i = .periods → res = s.res) := by
  cases h <;> exact ⟨_, _, _, _, rfl, by simp⟩

/-! ## The statements -/

/-- Settles O26: `exec_of_buf_none` and `exists_execAt_next` at this machine's parameters. -/
theorem commandStopsExactlyOnPoison : Obligations.CommandStopsExactlyOnPoison := by
  unfold Obligations.CommandStopsExactlyOnPoison
  intro i s
  refine ⟨exec_of_buf_none, fun h => ?_⟩
  rw [exec_eq_execAt]
  exact exists_execAt_next h

/-- Settles O27: of the three ways to end, completion has ERR = 0, and the execution-phase errors are ENCODE's code 2 and
DECODE's code 3. -/
theorem errorEffectOnState : Obligations.ErrorEffectOnState := by
  unfold Obligations.ErrorEffectOnState
  intro P i s t h herr
  cases execAt_next h with
  | check e _ => exact .inl rfl
  | exec e hcode =>
    refine .inr ⟨rfl, hcode.imp ?_ ?_⟩
    all_goals
      rintro ⟨rfl, rfl⟩
      exact ⟨rfl, rfl⟩
  | complete vf u _ _ => exact absurd (statusErr_statusWord vf .noError) herr

/-- Settles O28: each way to end writes one STATUS word, with the codes `CheckError` and `ExecError` list. -/
theorem statusAfterCommand : Obligations.StatusAfterCommand := by
  unfold Obligations.StatusAfterCommand
  intro P i s t h
  cases execAt_next h with
  | check e hcode =>
    obtain rfl | ⟨rfl, rfl⟩ | ⟨rfl, rfl⟩ := hcode
    · exact .inr (.inl rfl)
    · exact .inr (.inr (.inr (.inl ⟨rfl, rfl⟩)))
    · exact .inr (.inr (.inr (.inr (.inr ⟨rfl, rfl⟩))))
  | exec e hcode =>
    obtain ⟨rfl, rfl⟩ | ⟨rfl, rfl⟩ := hcode
    · exact .inr (.inr (.inr (.inr (.inl ⟨rfl, rfl⟩))))
    · exact .inr (.inr (.inr (.inr (.inr ⟨rfl, rfl⟩))))
  | complete vf u hflag _ =>
    cases vf with
    | false => exact .inl rfl
    | true => exact .inr (.inr (.inl ⟨hflag rfl, rfl⟩))

/-- Settles O29: the errors write STATUS, and those of ENCODE and DECODE also BUF and RES, which these list; completion is
`Written.frame`. -/
theorem commandFrame : Obligations.CommandFrame := by
  unfold Obligations.CommandFrame
  intro P i s t h
  cases execAt_next h with
  | check e _ => simp
  | exec e hcode =>
    obtain ⟨rfl, _⟩ | ⟨rfl, _⟩ := hcode <;> simp
  | complete vf u _ hwritten =>
    obtain ⟨res, buf, zout, pset, rfl, hframe⟩ := hwritten.frame
    exact ⟨rfl, rfl, rfl, rfl, rfl, rfl, rfl, hframe⟩

end Sys2Proof.Machine
end


section
/-!
PROOFS. The invariant of the architectural state (spec 10_state.md R24, R31, R32, R35 to R37): it speaks of STATUS, BUF,
RES, ZOUT and PSET alone, and each of the ways these are written keeps its clauses, by one lemma per update. A command is
then one of the three ways it ends (`execAt_next`), and a step one of the host's actions.
-/

namespace Sys2Proof.Machine

/-! ## The arrays a window's command writes -/

theorem zValue_le_length (s : Bits) (i : Nat) : zValue s i ≤ s.length :=
  (le_commonPrefix_iff.mp le_rfl).1

theorem commonPrefix_self (s : Bits) : commonPrefix s s = s.length :=
  le_antisymm (le_commonPrefix_iff.mp le_rfl).1 (le_commonPrefix_iff.mpr ⟨le_rfl, le_rfl, rfl⟩)

/-- R122: the first entry is the whole length. -/
theorem zValue_zero (s : Bits) : zValue s 0 = s.length := commonPrefix_self s

/-- ZOUT in the form ZFUNC writes, for windows up to `bound` bits (R36, R122). -/
structure ZoutShape (bound : Nat) (z : List Nat) : Prop where
  fits : z.length ≤ bound
  entries : ∀ t ∈ z, t ≤ z.length
  head : ∀ t rest, z = t :: rest → t = z.length

theorem zoutShape_computeZ {bound : Nat} {x : Bits} (hx : x.length ≤ bound) : ZoutShape bound (computeZ x) where
  fits := (computeZ_length x).trans_le hx
  entries t ht := by
    obtain ⟨i, _, rfl⟩ := List.mem_map.mp ht
    rw [computeZ_length]
    exact zValue_le_length x i
  head t rest hz := by
    have hfirst : (computeZ x)[0]? = some t := by rw [hz]; rfl
    obtain ⟨_, rfl⟩ := getElem?_computeZ_eq_some_iff.mp hfirst
    rw [computeZ_length, zValue_zero]

/-- PSET in the form PERIODS writes (R37, R129). -/
structure PsetShape (bound : Nat) (ps : Bits) : Prop where
  fits : ps.length ≤ bound + 1
  zero : ps.head? ≠ some true
  last : 2 ≤ ps.length → ps.getLast? = some true

theorem psetShape_periodSet {bound : Nat} {x : Bits} (hx : x.length ≤ bound) : PsetShape bound (periodSet x) where
  fits := by
    rw [periodSet_length]
    omega
  zero hhead := by
    have hbit : bitAt (periodSet x) 0 = true := by
      rw [bitAt, List.getD_eq_getElem?_getD, ← List.head?_eq_getElem?, hhead]
      rfl
    have hpos := ((bitAt_periodSet_iff (Nat.zero_le _)).mp hbit).1
    omega
  last hlen := by
    rw [periodSet_length] at hlen
    have hbit : bitAt (periodSet x) x.length = true :=
      (bitAt_periodSet_iff le_rfl).mpr (isPeriod_length (by omega))
    have hin : x.length < (periodSet x).length := by
      rw [periodSet_length]
      omega
    rw [List.getLast?_eq_getElem?, periodSet_length, Nat.add_sub_cancel, List.getElem?_eq_getElem hin]
    rwa [bitAt, List.getD_eq_getElem _ _ hin, ← Option.some_inj] at hbit

/-! ## STATUS -/

/-- R24, R74: the words the block writes to STATUS are legal, as VF is set only without an error. -/
theorem statusLegal_statusWord {vf : Bool} {e : ErrCode} (h : vf = true → e = .noError) :
    StatusLegal (statusWord vf e) where
  rsvd_zero := statusRsvd_statusWord vf e
  err_le := by
    rw [statusErr_statusWord]
    cases e <;> decide
  vf_no_err hvf := by
    rw [statusVf_statusWord] at hvf
    rw [statusErr_statusWord, h hvf]

/-! ## What keeps the invariant -/

section Invariant

variable {P : Params} {s t : State}

/-- The invariant is one of STATUS, BUF, RES, ZOUT and PSET: states that agree on these agree on it. -/
theorem Inv.congr (h : Inv P s) (hstatus : t.status = s.status) (hbuf : t.buf = s.buf) (hres : t.res = s.res)
    (hzout : t.zout = s.zout) (hpset : t.pset = s.pset) : Inv P t := by
  obtain ⟨h1, h2, h3, h4, h5, h6, h7, h8, h9, h10⟩ := h
  constructor <;> simp only [hstatus, hbuf, hres, hzout, hpset] <;> assumption

theorem Inv.setScript (h : Inv P s) (acts : List HostAction) : Inv P (s.setScript acts) := h.congr rfl rfl rfl rfl rfl

theorem Inv.reply (h : Inv P s) (r : Reply) : Inv P (s.reply r) := h.congr rfl rfl rfl rfl rfl

theorem Inv.writeReg (h : Inv P s) (r : Reg) (v : Word) : Inv P (writeReg r v s) := by
  obtain ⟨_, _, _, _, _, hwrite⟩ := writeReg_frame r v s
  rw [hwrite]
  exact h.congr rfl rfl rfl rfl rfl

theorem Inv.setBuf (h : Inv P s) {b : Bits} (hb : b.length ≤ P.nmax + 1) : Inv P (s.setBuf b) :=
  { h with
    buf_fits := fun _ hc => Option.some_inj.mp hc ▸ hb
    poison_res := nofun
    poison_err := nofun }

/-- RES alone may be written only while BUF is not ⊥. -/
theorem Inv.setRes (h : Inv P s) (hbuf : s.buf ≠ none) (v : Word) : Inv P (s.setRes v) :=
  { h with poison_res := fun hnone => absurd hnone hbuf }

theorem Inv.setZout (h : Inv P s) {z : List Nat} (hz : ZoutShape (P.nmax + 1) z) : Inv P (s.setZout z) :=
  { h with zout_fits := hz.fits, zout_entries := hz.entries, zout_head := hz.head }

theorem Inv.setPset (h : Inv P s) {ps : Bits} (hps : PsetShape (P.nmax + 1) ps) : Inv P (s.setPset ps) :=
  { h with pset_fits := hps.fits, pset_zero := hps.zero, pset_last := hps.last }

/-- A STATUS below code 2 may be written only while BUF is not ⊥ (R32). -/
theorem Inv.setStatus (h : Inv P s) {v : Word} (hv : StatusLegal v) (herr : s.buf = none → 2 ≤ (statusErr v).toNat) :
    Inv P (s.setStatus v) :=
  { h with status_legal := hv, poison_err := herr }

/-- R254: an execution-phase error poisons BUF and RES together. -/
theorem Inv.poison_setStatus (h : Inv P s) {v : Word} (hv : StatusLegal v) (herr : 2 ≤ (statusErr v).toNat) :
    Inv P (s.poison.setStatus v) :=
  { h with status_legal := hv, buf_fits := nofun, poison_res := fun _ => rfl, poison_err := fun _ => herr }

theorem inv_resetBlock (P : Params) (s : State) : Inv P (resetBlock s) where
  status_legal := statusLegal_statusWord (vf := false) (e := .noError) nofun
  buf_fits _ hc := Option.some_inj.mp hc ▸ Nat.zero_le _
  poison_res := nofun
  poison_err := nofun
  zout_fits := Nat.zero_le _
  zout_entries := nofun
  zout_head := nofun
  pset_fits := Nat.zero_le _
  pset_zero := nofun
  pset_last := nofun

/-! ## Commands and steps -/

theorem Inv.written {i : Instr} {u : State} (h : Inv P s) (hbuf : i = .tobits ∨ s.buf ≠ none) (hu : Written P s i u) :
    Inv P u ∧ u.buf ≠ none := by
  cases hu with
  | tobits out fits => exact ⟨h.setBuf fits, nofun⟩
  | frombits v | minperiod v | scan v =>
    have hbuf := hbuf.resolve_left nofun
    exact ⟨h.setRes hbuf v, hbuf⟩
  | zfunc x b hb fits =>
    exact ⟨h.setZout (zoutShape_computeZ (fits.trans (h.buf_fits b hb))), hbuf.resolve_left nofun⟩
  | periods x b hb fits =>
    exact ⟨h.setPset (psetShape_periodSet (fits.trans (h.buf_fits b hb))), hbuf.resolve_left nofun⟩
  | encode out v fits | decode out v fits => exact ⟨(h.setBuf fits).setRes nofun v, nofun⟩

/-- A command that answers keeps the invariant: while BUF is ⊥ only TOBITS answers, whose one error is PRECONDITION. -/
theorem Inv.exec {i : Instr} (h : Inv Config.params s) (ht : exec i s = .next t) : Inv Config.params t := by
  have hbuf : i = .tobits ∨ s.buf ≠ none := by
    by_contra! hpoison
    obtain ⟨hi, hnone⟩ := hpoison
    cases ht.symm.trans (exec_of_buf_none hi hnone)
  rw [exec_eq_execAt] at ht
  cases execAt_next ht with
  | check e hcode =>
    refine h.setStatus (statusLegal_statusWord nofun) fun hnone => ?_
    obtain rfl := hbuf.resolve_right (not_not_intro hnone)
    obtain rfl | ⟨⟨⟩, _⟩ | ⟨⟨⟩, _⟩ := hcode
    decide
  | exec e hcode =>
    refine h.poison_setStatus (statusLegal_statusWord nofun) ?_
    obtain ⟨_, rfl⟩ | ⟨_, rfl⟩ := hcode <;> decide
  | complete vf u _ hwritten =>
    obtain ⟨hu, hubuf⟩ := h.written hbuf hwritten
    exact hu.setStatus (statusLegal_statusWord fun _ => rfl) fun hnone => absurd hnone hubuf

theorem Inv.writeWord {size : AccessSize} {offset : BitVec 8} {v : Word} (h : Inv Config.params s)
    (ht : writeWord Machine.exec size offset v s = .next t) : Inv Config.params t := by
  obtain ⟨r, _, ⟨_, hissue⟩ | ⟨_, rfl⟩⟩ := writeWord_next ht
  · obtain ⟨e, _, rfl⟩ | ⟨i, _, hi⟩ := issueCommand_next hissue
    · exact h.setStatus (statusLegal_statusWord nofun) fun _ => by decide
    · exact h.exec hi
  · exact h.writeReg r v

theorem Inv.perform {act : HostAction} (h : Inv Config.params s) (ht : perform act s = .next t) :
    Inv Config.params t := by
  cases act with
  | read size offset =>
    obtain ⟨_, v, _, _, rfl⟩ := readWord_next ht
    exact h.reply _
  | write size offset v => exact h.writeWord ht
  | loadBuf bits =>
    obtain ⟨hfits, rfl⟩ := (loadBufAt_next_iff _ _ _ _).mp ht
    exact h.setBuf hfits
  | readBuf =>
    obtain ⟨b, _, rfl⟩ := (readBuf_next_iff _ _).mp ht
    exact h.reply _
  | readZout | readPset =>
    cases ht
    exact h.reply _
  | reset =>
    cases ht
    exact inv_resetBlock _ s

end Invariant

/-! ## The statements -/

/-- Settles O33: the state after reset is `resetBlock` of itself. -/
theorem invariantAtReset : Obligations.InvariantAtReset := by
  unfold Obligations.InvariantAtReset
  exact inv_resetBlock Config.params State.reset

/-- Settles O34: an idle step holds the state, any other performs an action on the state with a shorter script. -/
theorem stepKeepsInvariant : Obligations.StepKeepsInvariant := by
  unfold Obligations.StepKeepsInvariant
  intro s t h ht
  obtain ⟨_, rfl⟩ | ⟨act, rest, _, hact⟩ := stepScript_next ht
  · exact h
  · exact (h.setScript rest).perform hact

end Sys2Proof.Machine
end


section
/-!
PROOFS. What a command reads (spec 30_encoding.md R76). Two runs are compared by `SameOutcome`: it is carried through the
poison check, the window and the tests, so each command's case only follows the command's own text on equal operands.
-/

namespace Sys2Proof.Machine

/-! ## Results that agree -/

/-- Two states hold the same values in what the command `i` writes (R76). -/
def AgreeOnWritten (i : Instr) (u₁ u₂ : State) : Prop :=
  (i = .tobits ∨ i = .encode ∨ i = .decode → u₂.buf = u₁.buf) ∧
  (i = .zfunc → u₂.zout = u₁.zout) ∧ (i = .periods → u₂.pset = u₁.pset) ∧
  (i = .frombits ∨ i = .minperiod ∨ i = .scan ∨ i = .encode ∨ i = .decode → u₂.res = u₁.res)

/-- If the first of two runs of the command `i` answers, so does the second, with the same STATUS and, without an error,
the same values in what the command writes. -/
def SameOutcome (i : Instr) (r₁ r₂ : Result) : Prop :=
  ∀ t₁, r₁ = .next t₁ → ∃ t₂, r₂ = .next t₂ ∧ t₂.status = t₁.status ∧
    (statusErr t₁.status = 0#3 → AgreeOnWritten i t₁ t₂)

section Outcome

variable {i : Instr} {s₁ s₂ u₁ u₂ : State}

theorem SameOutcome.complete (vf : Bool) (h : AgreeOnWritten i u₁ u₂) :
    SameOutcome i (complete vf u₁) (complete vf u₂) := by
  rintro t₁ ⟨⟩
  exact ⟨_, rfl, rfl, fun _ => h⟩

theorem SameOutcome.error {e : ErrCode} (he : e ≠ .noError) :
    SameOutcome i (.next (u₁.setStatus (statusWord false e))) (.next (u₂.setStatus (statusWord false e))) := by
  rintro t₁ ⟨⟩
  refine ⟨_, rfl, rfl, fun herr => absurd ((errBits_eq_zero_iff e).mp ?_) he⟩
  rwa [State.setStatus_status, statusErr_statusWord] at herr

theorem SameOutcome.raiseCheck {e : ErrCode} (he : e ≠ .noError) :
    SameOutcome i (raiseCheck e s₁) (raiseCheck e s₂) := .error he

theorem SameOutcome.raiseExec {e : ErrCode} (he : e ≠ .noError) :
    SameOutcome i (raiseExec e s₁) (raiseExec e s₂) := .error he

theorem SameOutcome.withBuf {run₁ run₂ : Bits → Result} (hbuf : s₁.buf = s₂.buf)
    (hrun : ∀ b, SameOutcome i (run₁ b) (run₂ b)) : SameOutcome i (withBuf i s₁ run₁) (withBuf i s₂ run₂) := by
  cases hb : s₂.buf with
  | none =>
    rw [withBuf_of_none (hbuf.trans hb)]
    exact nofun
  | some b =>
    rw [withBuf_of_some (hbuf.trans hb), withBuf_of_some hb]
    exact hrun b

theorem SameOutcome.withWindow {run₁ run₂ : Bits → Result} (hbuf : s₁.buf = s₂.buf) (ha : s₁.a = s₂.a) (hw : s₁.w = s₂.w)
    (hrun : ∀ b, SameOutcome i (run₁ b) (run₂ b)) : SameOutcome i (withWindow i s₁ run₁) (withWindow i s₂ run₂) := by
  refine .withBuf hbuf fun b => ?_
  rw [ha, hw]
  split
  · exact hrun _
  · exact .raiseCheck nofun

/-! ## The commands on equal operands -/

theorem sameOutcome_tobits (P : Params) (ha : s₁.a = s₂.a) (hw : s₁.w = s₂.w) :
    SameOutcome .tobits (tobitsAt P s₁) (tobitsAt P s₂) := by
  rw [tobitsAt, tobitsAt, ha, hw]
  split
  · exact .complete _ (by simp [AgreeOnWritten])
  · exact .raiseCheck nofun

theorem sameOutcome_frombits (hbuf : s₁.buf = s₂.buf) (ha : s₁.a = s₂.a) (hw : s₁.w = s₂.w) :
    SameOutcome .frombits (execFrombits s₁) (execFrombits s₂) := by
  refine .withWindow hbuf ha hw fun b => ?_
  rw [hw]
  split
  · exact .complete _ (by simp [AgreeOnWritten])
  · exact .raiseCheck nofun

theorem sameOutcome_zfunc (hbuf : s₁.buf = s₂.buf) (ha : s₁.a = s₂.a) (hw : s₁.w = s₂.w) :
    SameOutcome .zfunc (execZfunc s₁) (execZfunc s₂) :=
  .withWindow hbuf ha hw fun b => .complete _ (by simp [AgreeOnWritten])

theorem sameOutcome_periods (hbuf : s₁.buf = s₂.buf) (ha : s₁.a = s₂.a) (hw : s₁.w = s₂.w) :
    SameOutcome .periods (execPeriods s₁) (execPeriods s₂) :=
  .withWindow hbuf ha hw fun b => .complete _ (by simp [AgreeOnWritten])

theorem sameOutcome_minperiod (hbuf : s₁.buf = s₂.buf) (ha : s₁.a = s₂.a) (hw : s₁.w = s₂.w) :
    SameOutcome .minperiod (execMinperiod s₁) (execMinperiod s₂) := by
  refine .withWindow hbuf ha hw fun b => ?_
  cases computeMinPeriod b with
  | none => exact .raiseCheck nofun
  | some q => exact .complete _ (by simp [AgreeOnWritten])

theorem sameOutcome_scan (hbuf : s₁.buf = s₂.buf) (hp : s₁.p = s₂.p) (hl : s₁.l = s₂.l) :
    SameOutcome .scan (execScan s₁) (execScan s₂) := by
  refine .withBuf hbuf fun b => ?_
  rw [hp, hl]
  split
  · cases firstViolation b s₂.l.toNat s₂.p.toNat with
    | none => exact .complete _ (by simp [AgreeOnWritten])
    | some f => exact .complete _ (by simp [AgreeOnWritten])
  · exact .raiseCheck nofun

theorem sameOutcome_encode (P : Params) (hbuf : s₁.buf = s₂.buf) (hn : s₁.n = s₂.n) (hp : s₁.p = s₂.p)
    (hl : s₁.l = s₂.l) : SameOutcome .encode (encodeAt P s₁) (encodeAt P s₂) := by
  refine .withBuf hbuf fun b => ?_
  rw [hn, hp, hl]
  split
  next hv =>
    split
    next hlen =>
      cases hcore : encodeCore (P.maxCorr s₂.n.toNat) s₂.n.toNat s₂.l.toNat s₂.p.toNat b with
      | error e =>
        obtain ⟨rfl, _⟩ := (encodeCore_error_iff hv hlen).mp hcore
        exact .raiseExec nofun
      | ok v => exact .complete _ (by simp [AgreeOnWritten])
    next => exact .raiseCheck nofun
  next => exact .raiseCheck nofun

theorem sameOutcome_decode (P : Params) (hbuf : s₁.buf = s₂.buf) (hn : s₁.n = s₂.n) (hp : s₁.p = s₂.p)
    (hl : s₁.l = s₂.l) : SameOutcome .decode (decodeAt P s₁) (decodeAt P s₂) := by
  refine .withBuf hbuf fun b => ?_
  rw [hn, hp, hl]
  split
  next hv =>
    split
    next hlen =>
      cases hcore : decodeCore (P.maxCorr s₂.n.toNat) s₂.n.toNat s₂.l.toNat s₂.p.toNat b with
      | error e =>
        obtain ⟨rfl, _⟩ := (decodeCore_error_iff hv hlen).mp hcore
        exact .raiseExec nofun
      | ok out => exact .complete _ (by simp [AgreeOnWritten])
    next => exact .raiseCheck nofun
  next => exact .raiseCheck nofun

end Outcome

/-! ## The statement -/

/-- Settles O30: the statement's conclusion is `SameOutcome`, and its hypotheses give each command equal operands. -/
theorem commandReadsOnlyItsOperands : Obligations.CommandReadsOnlyItsOperands := by
  unfold Obligations.CommandReadsOnlyItsOperands
  intro P i s₁ s₂ t₁ haw hpl hn hbuf
  revert t₁
  change SameOutcome i (execAt P i s₁) (execAt P i s₂)
  cases i with
  | tobits =>
    obtain ⟨ha, hw⟩ := haw (by simp)
    exact sameOutcome_tobits P ha hw
  | frombits =>
    obtain ⟨ha, hw⟩ := haw (by simp)
    exact sameOutcome_frombits (hbuf nofun) ha hw
  | zfunc =>
    obtain ⟨ha, hw⟩ := haw (by simp)
    exact sameOutcome_zfunc (hbuf nofun) ha hw
  | periods =>
    obtain ⟨ha, hw⟩ := haw (by simp)
    exact sameOutcome_periods (hbuf nofun) ha hw
  | minperiod =>
    obtain ⟨ha, hw⟩ := haw (by simp)
    exact sameOutcome_minperiod (hbuf nofun) ha hw
  | scan =>
    obtain ⟨hp, hl⟩ := hpl (by simp)
    exact sameOutcome_scan (hbuf nofun) hp hl
  | encode =>
    obtain ⟨hp, hl⟩ := hpl (by simp)
    exact sameOutcome_encode P (hbuf nofun) (hn (by simp)) hp hl
  | decode =>
    obtain ⟨hp, hl⟩ := hpl (by simp)
    exact sameOutcome_decode P (hbuf nofun) (hn (by simp)) hp hl

end Sys2Proof.Machine
end


section
/-!
PROOFS. When a command, a host action and a step stop, and how a run ends (spec 10_state.md R32; 20_memory.md R52, R54;
60_exceptions.md R257; 70_reset_and_hazards.md R287). Each operation has one lemma for its faults and one for its refusals.
-/

namespace Sys2Proof.Machine

/-! ## Commands -/

/-- R32, R73: a command stops by the fault of its poison check, and in no other way. -/
theorem exec_cases (i : Instr) (s : State) :
    ((i ≠ .tobits ∧ s.buf = none) ∧ exec i s = .fault (.commandOnPoisonedBuf i)) ∨
      (¬ (i ≠ .tobits ∧ s.buf = none) ∧ ∃ t, exec i s = .next t) := by
  by_cases hpoison : i ≠ .tobits ∧ s.buf = none
  · exact .inl ⟨hpoison, exec_of_buf_none hpoison.1 hpoison.2⟩
  · refine .inr ⟨hpoison, ?_⟩
    rw [exec_eq_execAt]
    exact exists_execAt_next (by tauto)

theorem exists_exec_fault_iff (i : Instr) (s : State) : (∃ f, exec i s = .fault f) ↔ i ≠ .tobits ∧ s.buf = none := by
  obtain ⟨hpoison, hexec⟩ | ⟨hfine, t, hexec⟩ := exec_cases i s
  · exact iff_of_true ⟨_, hexec⟩ hpoison
  · refine iff_of_false ?_ hfine
    rintro ⟨f, hf⟩
    cases hf.symm.trans hexec

theorem exec_ne_refused (i : Instr) (s : State) (r : Refusal) : exec i s ≠ .refused r := by
  intro hr
  obtain ⟨_, hexec⟩ | ⟨_, t, hexec⟩ := exec_cases i s <;> cases hr.symm.trans hexec

/-- R32, R71: the words of the commands that read BUF. -/
theorem exists_decode_ne_tobits_iff (w : Word) :
    (∃ i, decode w = .ok i ∧ i ≠ .tobits) ↔ 2 ≤ w.toNat ∧ w.toNat ≤ 8 := by
  constructor
  · rintro ⟨i, hi, hne⟩
    rw [(decode_ok_iff_eq_encode w i).mp hi]
    cases i with
    | tobits => exact absurd rfl hne
    | frombits | zfunc | periods | minperiod | scan | encode | decode => decide
  · rintro ⟨hge, hle⟩
    obtain ⟨i, hi⟩ := (exists_decode_ok_iff w).mpr (by omega)
    refine ⟨i, hi, ?_⟩
    rintro rfl
    rw [(decode_ok_iff_eq_encode w _).mp hi] at hge
    exact absurd hge (by decide)

theorem exists_issueCommand_fault_iff (w : Word) (s : State) :
    (∃ f, issueCommand exec w s = .fault f) ↔ 2 ≤ w.toNat ∧ w.toNat ≤ 8 ∧ s.buf = none := by
  rw [← and_assoc, ← exists_decode_ne_tobits_iff]
  cases hw : decode w with
  | error e => simp [issueCommand_of_error hw]
  | ok i => simp [issueCommand_of_ok hw, exists_exec_fault_iff]

theorem issueCommand_ne_refused (w : Word) (s : State) (r : Refusal) : issueCommand exec w s ≠ .refused r := by
  cases hw : decode w with
  | error e => simp [issueCommand_of_error hw]
  | ok i => simpa [issueCommand_of_ok hw] using exec_ne_refused i s r

/-! ## Register accesses -/

theorem selectReg_ok_iff_eq_regOffset {size : AccessSize} {offset : BitVec 8} {r : Reg} :
    selectReg size offset = .ok r ↔ size = .word ∧ offset = regOffset r := by
  refine ⟨eq_regOffset_of_selectReg, ?_⟩
  rintro ⟨rfl, rfl⟩
  exact selectReg_regOffset r

/-- R32: the registers that can hold ⊥. -/
theorem exists_readReg_error_iff (r : Reg) (s : State) :
    (∃ f, readReg r s = .error f) ↔ (r = .res ∧ s.res = none) ∨ (r = .bufLen ∧ s.buf = none) := by
  cases r with
  | res => cases h : s.res <;> simp [readReg, h]
  | bufLen => cases h : s.buf <;> simp [readReg, State.bufLen, h]
  | cmd | status | n | p | l | a | w | k => simp [readReg]

theorem exists_readWord_refused_iff (size : AccessSize) (offset : BitVec 8) (s : State) :
    (∃ r, readWord size offset s = .refused r) ↔ ∃ e, selectReg size offset = .error e := by
  cases hsel : selectReg size offset with
  | error e => simp [readWord, hsel]
  | ok r => cases hread : readReg r s <;> simp [readWord, hsel, hread]

theorem exists_readWord_fault_iff (size : AccessSize) (offset : BitVec 8) (s : State) :
    (∃ f, readWord size offset s = .fault f) ↔
      ∃ r, selectReg size offset = .ok r ∧ ∃ f, readReg r s = .error f := by
  cases hsel : selectReg size offset with
  | error e => simp [readWord, hsel]
  | ok r => cases hread : readReg r s <;> simp [readWord, hsel, hread]

theorem exists_writeWord_refused_iff (size : AccessSize) (offset : BitVec 8) (v : Word) (s : State) :
    (∃ r, writeWord exec size offset v s = .refused r) ↔ ∃ e, selectReg size offset = .error e := by
  cases hsel : selectReg size offset with
  | error e => simp [writeWord, hsel]
  | ok r => by_cases hr : r = .cmd <;> simp [writeWord, hsel, hr, issueCommand_ne_refused]

theorem exists_writeWord_fault_iff (size : AccessSize) (offset : BitVec 8) (v : Word) (s : State) :
    (∃ f, writeWord exec size offset v s = .fault f) ↔
      selectReg size offset = .ok .cmd ∧ ∃ f, issueCommand exec v s = .fault f := by
  cases hsel : selectReg size offset with
  | error e => simp [writeWord, hsel]
  | ok r => by_cases hr : r = .cmd <;> simp [writeWord, hsel, hr]

/-! ## Host actions -/

/-- The actions that have no meaning because of ⊥ (R32, R257). -/
theorem exists_perform_fault_iff (act : HostAction) (s : State) :
    (∃ f, perform act s = .fault f) ↔
      (act = .readBuf ∧ s.buf = none) ∨ (act = .read .word (regOffset .res) ∧ s.res = none) ∨
      (act = .read .word (regOffset .bufLen) ∧ s.buf = none) ∨
      (∃ w : Word, act = .write .word (regOffset .cmd) w ∧ 2 ≤ w.toNat ∧ w.toNat ≤ 8 ∧ s.buf = none) := by
  cases act with
  | read size offset =>
    refine (exists_readWord_fault_iff size offset s).trans ?_
    simp only [exists_readReg_error_iff, selectReg_ok_iff_eq_regOffset]
    constructor
    · rintro ⟨r, ⟨rfl, rfl⟩, ⟨rfl, hres⟩ | ⟨rfl, hbuf⟩⟩
      · exact .inr (.inl ⟨rfl, hres⟩)
      · exact .inr (.inr (.inl ⟨rfl, hbuf⟩))
    · rintro (⟨⟨⟩, _⟩ | ⟨⟨⟩, hres⟩ | ⟨⟨⟩, hbuf⟩ | ⟨_, ⟨⟩, _⟩)
      · exact ⟨.res, ⟨rfl, rfl⟩, .inl ⟨rfl, hres⟩⟩
      · exact ⟨.bufLen, ⟨rfl, rfl⟩, .inr ⟨rfl, hbuf⟩⟩
  | write size offset v =>
    refine (exists_writeWord_fault_iff size offset v s).trans ?_
    simp only [exists_issueCommand_fault_iff, selectReg_ok_iff_eq_regOffset]
    constructor
    · rintro ⟨⟨rfl, rfl⟩, hstop⟩
      exact .inr (.inr (.inr ⟨v, rfl, hstop⟩))
    · rintro (⟨⟨⟩, _⟩ | ⟨⟨⟩, _⟩ | ⟨⟨⟩, _⟩ | ⟨_, ⟨⟩, hstop⟩)
      exact ⟨⟨rfl, rfl⟩, hstop⟩
  | loadBuf bits =>
    by_cases h : bits.length ≤ Config.params.nmax + 1 <;> simp [perform, performWith, loadBufAt, h]
  | readBuf => cases h : s.buf <;> simp [perform, performWith, readBuf, h]
  | readZout | readPset | reset => simp [perform, performWith]

/-- The actions the block refuses (R52, R54). -/
theorem exists_perform_refused_iff (act : HostAction) (s : State) :
    (∃ r, perform act s = .refused r) ↔
      (∃ size offset, act = .read size offset ∧ ∃ e, selectReg size offset = .error e) ∨
      (∃ size offset v, act = .write size offset v ∧ ∃ e, selectReg size offset = .error e) ∨
      (∃ bits, act = .loadBuf bits ∧ Config.params.nmax + 1 < bits.length) := by
  cases act with
  | read size offset => exact (exists_readWord_refused_iff size offset s).trans (by simp)
  | write size offset v => exact (exists_writeWord_refused_iff size offset v s).trans (by simp)
  | loadBuf bits =>
    by_cases h : bits.length ≤ Config.params.nmax + 1
    · simp [perform, performWith, loadBufAt, h]
    · simp [perform, performWith, loadBufAt, h, Nat.lt_of_not_le h]
  | readBuf => cases h : s.buf <;> simp [perform, performWith, readBuf, h]
  | readZout | readPset | reset => simp [perform, performWith]

/-! ## The script and the run -/

theorem CommandEnds.script {P : Params} {i : Instr} {s t : State} (h : CommandEnds P i s t) : t.script = s.script := by
  cases h with
  | check | exec => rfl
  | complete vf u _ hwritten =>
    obtain ⟨_, _, _, _, rfl, _⟩ := hwritten.frame
    rfl

theorem perform_script {act : HostAction} {s t : State} (ht : perform act s = .next t) : t.script = s.script := by
  cases act with
  | read size offset =>
    obtain ⟨_, _, _, _, rfl⟩ := readWord_next ht
    rfl
  | write size offset v =>
    obtain ⟨r, _, ⟨_, hissue⟩ | ⟨_, rfl⟩⟩ := writeWord_next ht
    · obtain ⟨_, _, rfl⟩ | ⟨i, _, hi⟩ := issueCommand_next hissue
      · rfl
      · rw [exec_eq_execAt] at hi
        exact (execAt_next hi).script
    · exact writeReg_script r v s
  | loadBuf bits =>
    obtain ⟨_, rfl⟩ := (loadBufAt_next_iff _ _ _ _).mp ht
    rfl
  | readBuf =>
    obtain ⟨_, _, rfl⟩ := (readBuf_next_iff _ _).mp ht
    rfl
  | readZout | readPset | reset =>
    cases ht
    rfl

/-- A step that answers takes exactly one action from the script, RESET and commands included. -/
theorem step_script {s t : State} {act : HostAction} {rest : List HostAction} (hs : s.script = act :: rest)
    (ht : step s = .next t) : t.script = rest := by
  rw [step_of_cons hs] at ht
  exact perform_script ht

/-- A run as long as the script, if it answers, has performed all of it (R287). -/
theorem script_eq_nil_of_run {acts : List HostAction} :
    ∀ {s t : State}, s.script = acts → Host.Core.run Sys2Proof.core acts.length s = .next t → t.script = [] := by
  induction acts with
  | nil =>
    rintro s t hs ⟨⟩
    exact hs
  | cons act rest ih =>
    intro s t hs ht
    rw [List.length_cons] at ht
    cases hstep : step s with
    | next u =>
      rw [run_succ_of_next hstep] at ht
      exact ih (step_script hs hstep) ht
    | fault f => cases (run_succ_of_fault hstep _).symm.trans ht
    | refused r => cases (run_succ_of_refused hstep _).symm.trans ht

/-- A run of `k` steps that answers has answered at every step before. -/
theorem exists_run_next_of_le {j k : Nat} (hjk : j ≤ k) :
    ∀ {s t : State}, Host.Core.run Sys2Proof.core k s = .next t → ∃ u, Host.Core.run Sys2Proof.core j s = .next u := by
  induction j generalizing k with
  | zero => exact fun _ => ⟨_, rfl⟩
  | succ j ih =>
    intro s t ht
    obtain ⟨k, rfl⟩ := Nat.exists_eq_add_of_le' (Nat.one_le_of_lt hjk)
    cases hstep : step s with
    | next u =>
      rw [run_succ_of_next hstep] at ht ⊢
      exact ih (by omega) ht
    | fault f => cases (run_succ_of_fault hstep _).symm.trans ht
    | refused r => cases (run_succ_of_refused hstep _).symm.trans ht

/-! ## The statements -/

/-- Settles O11: a read is refused by `selectReg` alone, and so is a write, since no command is. -/
theorem accessRefusedExactlyWhenIllegal : Obligations.AccessRefusedExactlyWhenIllegal := by
  unfold Obligations.AccessRefusedExactlyWhenIllegal
  intro s size offset v rest hs
  rw [← exists_selectReg_error_iff]
  obtain hread | hwrite := hs
  · rw [step_of_cons hread]
    exact exists_readWord_refused_iff size offset _
  · rw [step_of_cons hwrite]
    exact exists_writeWord_refused_iff size offset v _

/-- Settles O31: the step is the action on the state with a shorter script, whose BUF and RES are the same. -/
theorem stepStopsExactlyOnPoisonOrBadAccess : Obligations.StepStopsExactlyOnPoisonOrBadAccess := by
  unfold Obligations.StepStopsExactlyOnPoisonOrBadAccess
  intro s act rest hs
  simp only [step_of_cons hs, ← exists_selectReg_error_iff]
  exact ⟨exists_perform_fault_iff act (s.setScript rest), exists_perform_refused_iff act (s.setScript rest)⟩

/-- Settles O32: a successful run has performed the whole script; a failed one stops within its full length, and a stop after
fewer steps shuts out success. -/
theorem runEndsOrStops : Obligations.RunEndsOrStops := by
  unfold Obligations.RunEndsOrStops
  refine fun s => ⟨fun t ht => script_eq_nil_of_run rfl ht, fun hfails => ?stops, ?fails⟩
  case stops =>
    refine ⟨s.script.length, le_rfl, ?_⟩
    cases hrun : Host.Core.run Sys2Proof.core s.script.length s with
    | next t => exact absurd hrun (hfails t)
    | fault f => exact .inl ⟨f, rfl⟩
    | refused r => exact .inr ⟨r, rfl⟩
  case fails =>
    rintro ⟨k, hk, hstop⟩ t ht
    obtain ⟨u, hu⟩ := exists_run_next_of_le hk ht
    obtain ⟨_, hf⟩ | ⟨_, hr⟩ := hstop
    · cases hf.symm.trans hu
    · cases hr.symm.trans hu

end Sys2Proof.Machine
end


section
/-!
PROOFS. ENCODE and DECODE at this machine's parameters, and what the record loop makes of a stream under every bound (spec
43_encoder.md R180 to R182; 44_decoder.md R210 to R221). Both counts are at most MAX_CORR(n), so RES holds them.
-/

namespace Sys2Proof.Machine

/-! ## The counts -/

/-- A count up to MAX_CORR(n) fits RES, for the payload lengths the block accepts (log 4). -/
theorem toNat_zext_of_le_maxCorr {n c : Nat} (hn : n ≤ Config.params.nmax) (hc : c ≤ Config.params.maxCorr n) :
    (zext c).toNat = c := by
  have hmax := params_legal.maxCorr_lt n hn
  exact toNat_zext_of_lt (by omega)

section Completed

variable {s : State} {b : Bits}

theorem exec_encode_of_ok {v : EncodeVars} (hb : s.buf = some b) (hlen : b.length = s.n.toNat)
    (hv : ValidParams Config.params.nmax s.n.toNat s.l.toNat s.p.toNat)
    (hok : encodeCore (Config.params.maxCorr s.n.toNat) s.n.toNat s.l.toNat s.p.toNat b = .ok v) :
    exec .encode s = .next (((s.setBuf v.buf).setRes (zext v.c)).setStatus (statusWord false .noError)) :=
  (encodeAt_next_iff _ _ _).mpr ⟨b, hb, .inl ⟨hv, hlen, .inr ⟨v, hok, rfl⟩⟩⟩

theorem exec_decode_of_ok {out : Bits} {r : Nat} (hb : s.buf = some b) (hlen : b.length = s.n.toNat + 1)
    (hv : ValidParams Config.params.nmax s.n.toNat s.l.toNat s.p.toNat)
    (hok : decodeCore (Config.params.maxCorr s.n.toNat) s.n.toNat s.l.toNat s.p.toNat b = .ok (out, r)) :
    exec .decode s = .next (((s.setBuf out).setRes (zext r)).setStatus (statusWord false .noError)) :=
  (decodeAt_next_iff _ _ _).mpr ⟨b, hb, .inl ⟨hv, hlen, .inr ⟨out, r, hok, rfl⟩⟩⟩

end Completed

/-! ## The record loop and its bound -/

section Bound

variable {nmax mc mc' n l p j r : Nat} {enc buf out payload S : Bits}

/-- The trace has passed every smaller count, and there a record remained (R211). -/
theorem DecodeReaches.exists_of_lt {k : Nat} (h : DecodeReaches n l p enc r buf) (hk : k < r) :
    ∃ buf', DecodeReaches n l p enc k buf' ∧ bitAt buf' n = false := by
  induction h with
  | start => omega
  | next r buf buf' before hremains _ ih =>
    obtain rfl | hlt := (Nat.le_of_lt_succ hk).eq_or_lt
    · exact ⟨buf, before, hremains⟩
    · exact ih hlt

theorem DecodeFinishesAt.of_le (h : DecodeFinishesAt mc' n l p enc out r) (hr : r ≤ mc) :
    DecodeFinishesAt mc n l p enc out r :=
  ⟨hr, h.2⟩

/-- R218: a smaller bound than the count stops the loop at a record that remains. -/
theorem DecodeFinishesAt.fails_of_lt (h : DecodeFinishesAt mc' n l p enc out r) (hr : mc < r) :
    DecodeFails mc n l p enc := by
  obtain ⟨_, buf, hreach, _, _⟩ := h
  obtain ⟨buf', hbefore, hremains⟩ := hreach.exists_of_lt hr
  exact ⟨mc, buf', hbefore, hremains, le_rfl, .inl rfl⟩

theorem DecodeFinishesAt.length_eq (hv : ValidParams nmax n l p) (henc : enc.length = n + 1)
    (h : DecodeFinishesAt mc n l p enc out r) : out.length = n := by
  obtain ⟨_, buf, hreach, _, rfl⟩ := h
  have hbuf := hreach.length_eq hv henc
  exact slice_length_of_fits (by omega)

end Bound

/-! ## A stream that ENCODE never makes -/

theorem validParams_eight : ValidParams 8 8 8 4 := by decide

/-- R221's stream: the payload `0^8` with its terminator, which violates the constraint. -/
def uncorrectedStream : Bits := List.replicate 8 false ++ [true]

/-- What ENCODE makes of `0^8`: one correction, at offset 0 with the period 1. -/
def correctedStream : Bits := [false, true, false, false, true, false, false, false, false]

theorem encodeCore_zeros :
    encodeCore 8 8 8 4 (List.replicate 8 false) = .ok ⟨correctedStream, 1, 2, false⟩ := by decide

/-- A payload whose output decoded to `0^8` with no record is `0^8` itself, whose output has a record. -/
theorem encodeCore_ne_uncorrectedStream {payload : Bits} {v : EncodeVars} (hpayload : payload.length = 8)
    (hok : encodeCore 8 8 8 4 payload = .ok v) : v.buf ≠ uncorrectedStream := by
  intro hbuf
  obtain ⟨_, hc, hend⟩ := (encodeCore_ok_iff validParams_eight hpayload).mp hok
  have hlen := hend.length_eq validParams_eight hpayload
  have hback := (hend.encodedStream.decodeFinishesAt validParams_eight hpayload hc).decodeCore_eq validParams_eight hlen
  have hzeros : decodeCore 8 8 8 4 uncorrectedStream = .ok (List.replicate 8 false, 0) := by decide
  rw [hbuf, hzeros, Except.ok.injEq, Prod.mk.injEq] at hback
  obtain ⟨rfl, _⟩ := hback
  rw [encodeCore_zeros, Except.ok.injEq] at hok
  rw [← hok] at hbuf
  exact absurd hbuf (by decide)

/-! ## The statements -/

/-- Settles O23: the case of no correction is `encodeCore_of_sat`; in general the count is within the bound. -/
theorem encodeCompletes : Obligations.EncodeCompletes := by
  unfold Obligations.EncodeCompletes
  intro s b hb hlen hv
  refine ⟨fun hsat => exec_encode_of_ok hb hlen hv (encodeCore_of_sat _ hv hlen hsat),
    fun v hok => ⟨zext v.c, ?count, exec_encode_of_ok hb hlen hv hok⟩⟩
  case count =>
    obtain ⟨_, hc, _⟩ := (encodeCore_ok_iff hv hlen).mp hok
    obtain ⟨_, hn, _⟩ := hv
    exact toNat_zext_of_le_maxCorr hn hc

/-- Settles O25: a last bit 1 ends the record loop at its start; in general the count is within the bound. -/
theorem decodeCompletes : Obligations.DecodeCompletes := by
  unfold Obligations.DecodeCompletes
  intro s b hb hlen hv
  refine ⟨fun hlast => exec_decode_of_ok hb hlen hv ?noRecord,
    fun out r hok => ⟨zext r, ?count, exec_decode_of_ok hb hlen hv hok⟩⟩
  case noRecord => exact (decodeCore_ok_iff hv hlen).mpr ⟨Nat.zero_le _, b, .start, hlast, rfl⟩
  case count =>
    obtain ⟨hr, _⟩ := (decodeCore_ok_iff hv hlen).mp hok
    obtain ⟨_, hn, _⟩ := hv
    exact toNat_zext_of_le_maxCorr hn hr

/-- Settles O52: a result is an end of the trace, which no bound moves, and a bound below its count stops the loop before
it. -/
theorem decodeCountBound : Obligations.DecodeCountBound := by
  unfold Obligations.DecodeCountBound
  intro nmax n l p mc enc hv henc
  refine ⟨fun out r hok => ?result, fun e herror => ((decodeCore_error_iff hv henc).mp herror).1,
    fun mc' out r hok => ⟨fun hr => ?larger, fun hr => ?smaller⟩⟩
  case result =>
    have hfinish := (decodeCore_ok_iff hv henc).mp hok
    have ⟨hr, _⟩ := hfinish
    exact ⟨hr, hfinish.length_eq hv henc⟩
  case larger => exact (((decodeCore_ok_iff hv henc).mp hok).of_le hr).decodeCore_eq hv henc
  case smaller => exact (((decodeCore_ok_iff hv henc).mp hok).fails_of_lt hr).decodeCore_eq hv henc

/-- Settles O50: with the bound `j` a stream of `j` corrections decodes to its payload, and any other bound decides only
whether that is admitted. -/
theorem decodeInvertsEveryStream : Obligations.DecodeInvertsEveryStream := by
  unfold Obligations.DecodeInvertsEveryStream
  intro nmax n l p mc j payload S hv hpayload hS
  obtain ⟨hlen, _⟩ := hS.length_and_last hv hpayload
  have hfinish := hS.decodeFinishesAt hv hpayload le_rfl
  exact ⟨fun hj => (hfinish.of_le hj).decodeCore_eq hv hlen, fun hj => (hfinish.fails_of_lt hj).decodeCore_eq hv hlen⟩

/-- Settles O53: the two streams by evaluation at (8, 8, 4), and no payload encodes to the first. -/
theorem decodeIsNotInjective : Obligations.DecodeIsNotInjective := by
  unfold Obligations.DecodeIsNotInjective
  exact ⟨uncorrectedStream, correctedStream, by decide, rfl, rfl, by decide, by decide,
    ⟨_, encodeCore_zeros, rfl⟩, fun payload v => encodeCore_ne_uncorrectedStream⟩

end Sys2Proof.Machine
end


section
/-!
PROOFS. The linear-time Z algorithm (spec 41_period_analyzer.md R123) gives the list of the definition. Before the round at
position `i` the entries below `i` are the Z values, and a match window that reaches beyond `i` is a match that began
between 1 and `i - 1` (`ZRoundInv`). So the value taken over from the window is a match at `i`, and `zExtend` lengthens
any match to the largest.
-/

namespace Sys2Proof.Machine

/-! ## Lengthening a match -/

/-- The test of the inner loop: a match of length `t` goes on by one more bit. -/
theorem lt_zValue_iff {s : Bits} {i t : Nat} (hi : i ≤ s.length) (ht : t ≤ zValue s i) :
    t < zValue s i ↔ i + t < s.length ∧ bitAt s t = bitAt s (i + t) := by
  rw [← Nat.succ_le_iff, ← matchesAt_iff_le_zValue hi, matchesAt_iff_forall_bitAt]
  obtain ⟨_, hbits⟩ := matchesAt_iff_forall_bitAt.mp ((matchesAt_iff_le_zValue hi).mpr ht)
  refine ⟨fun ⟨hfit, hall⟩ => ⟨hfit, hall t t.lt_succ_self⟩, fun ⟨hfit, hbit⟩ => ⟨hfit, fun j hj => ?_⟩⟩
  obtain hlt | rfl := Nat.lt_succ_iff_lt_or_eq.mp hj
  · exact hbits j hlt
  · exact hbit

/-- With enough rounds the inner loop lengthens any match to the largest. -/
theorem zExtend_eq_zValue {s : Bits} {i : Nat} (hi : i ≤ s.length) (fuel : Nat) :
    ∀ {t : Nat}, t ≤ zValue s i → zValue s i ≤ t + fuel → zExtend s i fuel t = zValue s i := by
  induction fuel with
  | zero => exact fun ht hfuel => le_antisymm ht hfuel
  | succ fuel ih =>
    intro t ht hfuel
    rw [zExtend]
    split
    next hmore => exact ih ((lt_zValue_iff hi ht).mpr hmore) (by omega)
    next hstop =>
      have hge := mt (lt_zValue_iff hi ht).mp hstop
      omega

/-! ## The match window -/

/-- What holds before the round at position `i`. -/
structure ZRoundInv (s : Bits) (i : Nat) (v : ZVars) : Prop where
  length : v.z.length = s.length
  entries : ∀ j, j < i → j < s.length → v.z.getD j 0 = zValue s j
  window : i < v.rw → 1 ≤ v.lw ∧ v.lw < i ∧ MatchesAt s v.lw (v.rw - v.lw)

/-- A match at `lw` that covers `i` carries the match at `i - lw` over to `i`, as far as it reaches. -/
theorem MatchesAt.shift {s : Bits} {lw r i t : Nat} (hwindow : MatchesAt s lw (r - lw)) (hlw : lw ≤ i)
    (hback : MatchesAt s (i - lw) t) (ht : t ≤ r - i) (hir : i ≤ r) : MatchesAt s i t := by
  obtain ⟨hfit, hwindow_bits⟩ := matchesAt_iff_forall_bitAt.mp hwindow
  obtain ⟨_, hback_bits⟩ := matchesAt_iff_forall_bitAt.mp hback
  refine matchesAt_iff_forall_bitAt.mpr ⟨by omega, fun j hj => ?_⟩
  have hpos : lw + (i - lw + j) = i + j := by omega
  calc bitAt s j = bitAt s (i - lw + j) := hback_bits j hj
    _ = bitAt s (lw + (i - lw + j)) := hwindow_bits _ (by omega)
    _ = bitAt s (i + j) := by rw [hpos]

theorem ZRoundInv.zStart_le {s : Bits} {i : Nat} {v : ZVars} (h : ZRoundInv s i v) (hi : i < s.length) :
    zStart v i ≤ zValue s i := by
  rw [zStart]
  split
  next hinside =>
    obtain ⟨hlw, hlwi, hmatch⟩ := h.window hinside
    rw [h.entries (i - v.lw) (by omega) (by omega)]
    have hback : MatchesAt s (i - v.lw) (min (v.rw - i) (zValue s (i - v.lw))) :=
      (matchesAt_iff_le_zValue (by omega)).mpr (min_le_right _ _)
    exact (matchesAt_iff_le_zValue hi.le).mp (hmatch.shift hlwi.le hback (min_le_left _ _) hinside.le)
  next => exact Nat.zero_le _

/-- Each round finds the largest match. -/
theorem ZRoundInv.zExtend_zStart {s : Bits} {i : Nat} {v : ZVars} (h : ZRoundInv s i v) (hi : i < s.length) :
    zExtend s i s.length (zStart v i) = zValue s i :=
  zExtend_eq_zValue hi.le _ (h.zStart_le hi) ((zValue_le_length s i).trans (Nat.le_add_left _ _))

theorem ZRoundInv.zRound {s : Bits} {i : Nat} {v : ZVars} (h : ZRoundInv s i v) (hi : 1 ≤ i) (his : i < s.length) :
    ZRoundInv s (i + 1) (zRound s i v) := by
  have hentries : ∀ j, j < i + 1 → j < s.length → (v.z.set i (zValue s i)).getD j 0 = zValue s j := by
    intro j hj hjs
    rw [List.getD_eq_getElem?_getD, List.getElem?_set]
    split
    next hij => simp [← hij, h.length, his]
    next hij =>
      rw [← List.getD_eq_getElem?_getD]
      exact h.entries j (by omega) hjs
  have hlength : (v.z.set i (zValue s i)).length = s.length := List.length_set.trans h.length
  rw [Machine.zRound, h.zExtend_zStart his]
  split
  next hfarther =>
    refine ⟨hlength, hentries, fun _ => ⟨hi, i.lt_succ_self, ?_⟩⟩
    rw [Nat.add_sub_cancel_left]
    exact (matchesAt_iff_le_zValue his.le).mpr le_rfl
  next =>
    refine ⟨hlength, hentries, fun hinside => ?_⟩
    obtain ⟨hlw, hlwi, hmatch⟩ := h.window (Nat.lt_of_succ_lt hinside)
    exact ⟨hlw, Nat.lt_succ_of_lt hlwi, hmatch⟩

/-- Before the first round `z[0]` is the whole length, and the window is empty. -/
theorem zRoundInv_start (s : Bits) :
    ZRoundInv s 1 { z := (List.replicate s.length 0).set 0 s.length, lw := 0, rw := 0 } where
  length := by simp
  entries j hj hjs := by
    obtain rfl := Nat.lt_one_iff.mp hj
    rw [zValue_zero, List.getD_eq_getElem?_getD, List.getElem?_set]
    simp [hjs]
  window := nofun

/-- What holds after the last round. -/
theorem exists_zRoundInv_linearZ (s : Bits) : ∃ v, v.z = linearZ s ∧ ZRoundInv s (1 + (s.length - 1)) v :=
  ⟨_, rfl, forFrom_induction (zRound s) (ZRoundInv s) (s.length - 1) 1 _ (zRoundInv_start s)
    fun _ _ hi his h => h.zRound hi (by omega)⟩

/-! ## The statement -/

/-- Settles O38: after the last round every entry is the Z value of its position. -/
theorem linearZRefinesComputeZ : Obligations.LinearZRefinesComputeZ := by
  unfold Obligations.LinearZRefinesComputeZ
  intro s
  obtain ⟨v, hv, hend⟩ := exists_zRoundInv_linearZ s
  rw [← hv]
  refine List.ext_getElem (hend.length.trans (computeZ_length s).symm) fun j hj hj' => ?_
  have hjs : j < s.length := hj'.trans_eq (computeZ_length s)
  have hentry := (hend.entries j (by omega) hjs).trans (computeZ_getD hjs).symm
  rwa [List.getD_eq_getElem _ _ hj, List.getD_eq_getElem _ _ hj'] at hentry

end Sys2Proof.Machine
end


section
/-!
PROOFS. The scanner's first violation as a least offset, and the platform around the block: several instances, and the byte
lanes of a register (spec 42_window_scanner.md R154; 20_memory.md R53, R66; 60_exceptions.md R266).
-/

namespace Sys2Proof.Machine

/-! ## Byte lanes -/

/-- The four bytes of a word, put together again. -/
theorem append_bytes (v : Word) :
    v.extractLsb' 24 8 ++ (v.extractLsb' 16 8 ++ (v.extractLsb' 8 8 ++ v.extractLsb' 0 8)) = v := by
  have hjoin (start low high : Nat) :
      v.extractLsb' (start + low) high ++ v.extractLsb' start low = v.extractLsb' start (high + low) :=
    BitVec.extractLsb'_append_extractLsb'_eq_extractLsb' rfl
  rw [hjoin 0 8 8, hjoin 0 16 8, hjoin 0 24 8, BitVec.extractLsb'_eq_self]

/-! ## The statements -/

/-- Settles O39: `firstViolation_eq_none_iff`, and `firstViolation_eq_some_iff` with the offset's range as R152 writes it. -/
theorem firstViolationIsLeast : Obligations.FirstViolationIsLeast := by
  unfold Obligations.FirstViolationIsLeast
  intro buf l p
  refine ⟨firstViolation_eq_none_iff, fun i => firstViolation_eq_some_iff.trans (and_congr_left fun _ => ?_)⟩
  rw [← mem_offsets_iff, offsets, List.mem_range]

/-- Settles O54: `platformPerform` writes one place of the list, with the same base, and no other. -/
theorem instancesAreIsolated : Obligations.InstancesAreIsolated := by
  unfold Obligations.InstancesAreIsolated
  intro pf i act u hu
  refine ⟨fun t ht => ⟨pf.set i { u with core := t }, ?next, List.length_set, ?acted, fun j hj => ?others⟩,
    fun f hf => ?fault, fun r hr => ?refused⟩
  case next => simp only [platformPerform, hu, ht]
  case acted =>
    obtain ⟨hi, _⟩ := List.getElem?_eq_some_iff.mp hu
    exact List.getElem?_set_self hi
  case others => exact List.getElem?_set_ne hj.symm
  case fault => simp only [platformPerform, hu, hf]
  case refused => simp only [platformPerform, hu, hr]

/-- Settles O55: either order puts the same four bytes together. -/
theorem byteLanesCarryTheValue : Obligations.ByteLanesCarryTheValue := by
  unfold Obligations.ByteLanesCarryTheValue
  intro o v
  cases o with
  | little => exact ⟨_, _, _, _, rfl, append_bytes v⟩
  | big => exact ⟨_, _, _, _, rfl, append_bytes v⟩

end Sys2Proof.Machine
end
